-- ==== Sys2Proof/Word.lean ====
section
/-! DEFINITION. Bytes, the names of ports, channels and terms, and a record of one thing per port. -/

namespace Sys2Proof

/-- A byte of a message (10 R179). -/
abbrev Byte := BitVec 8

/-- A sense channel, 0..23 (00, "Names"). -/
abbrev ChannelId := Fin 24

/-- A combination term, 0..15 (00, "Names"). -/
abbrev TermId := Fin 16

/-- The three host ports (00, "Connections"). -/
inductive Port where
  | a
  | b
  | c
deriving DecidableEq, Repr

/-- One value for each of the ports A, B and C. -/
structure PortMap (α : Type) where
  a : α
  b : α
  c : α
deriving DecidableEq, Repr

/-- The value of one port. -/
def PortMap.get {α : Type} (m : PortMap α) : Port → α
  | .a => m.a
  | .b => m.b
  | .c => m.c

/-- Replace the value of one port. -/
def PortMap.set {α : Type} (m : PortMap α) (p : Port) (x : α) : PortMap α :=
  match p with
  | .a => { m with a := x }
  | .b => { m with b := x }
  | .c => { m with c := x }

/-- The same value for every port. -/
def PortMap.const {α : Type} (x : α) : PortMap α := ⟨x, x, x⟩

/-- The ports in their order A, B, C. -/
def Port.all : List Port := [.a, .b, .c]

/-- The channels in channel order 0..23. -/
def ChannelId.all : List ChannelId := List.finRange 24

/-- The terms in term order 0..15. -/
def TermId.all : List TermId := List.finRange 16

@[simp] theorem PortMap.get_set_same {α : Type} (m : PortMap α) (p : Port) (x : α) :
    (m.set p x).get p = x := by cases p <;> rfl

theorem PortMap.get_set_ne {α : Type} (m : PortMap α) {p q : Port} (h : q ≠ p) (x : α) :
    (m.set p x).get q = m.get q := by
  cases p <;> cases q <;> first | rfl | exact absurd rfl h

@[simp] theorem PortMap.get_const {α : Type} (x : α) (p : Port) :
    (PortMap.const x).get p = x := by cases p <;> rfl

/-- Replace one entry of a table of n things. -/
def setAt {α : Type} {n : Nat} (v : Vector α n) (i : Fin n) (x : α) : Vector α n :=
  v.set i.val x i.isLt

@[simp] theorem get_setAt_same {α : Type} {n : Nat} (v : Vector α n) (i : Fin n) (x : α) :
    (setAt v i x).get i = x := by
  simp [setAt, Vector.get_eq_getElem]

theorem get_setAt_ne {α : Type} {n : Nat} (v : Vector α n) {i j : Fin n} (h : j ≠ i) (x : α) :
    (setAt v i x).get j = v.get j := by
  have hne : i.val ≠ j.val := fun e => h (Fin.ext e.symm)
  simp [setAt, Vector.get_eq_getElem, Vector.getElem_set_ne, hne]

theorem get_setAt {α : Type} {n : Nat} (v : Vector α n) (i j : Fin n) (x : α) :
    (setAt v i x).get j = if j = i then x else v.get j := by
  by_cases h : j = i
  · subst h; simp
  · simp [h, get_setAt_ne v h]

@[simp] theorem get_ofFn {α : Type} {n : Nat} (f : Fin n → α) (i : Fin n) :
    (Vector.ofFn f).get i = f i := by
  simp [Vector.get_eq_getElem]

theorem PortMap.get_set {α : Type} (m : PortMap α) (p q : Port) (x : α) :
    (m.set p x).get q = if q = p then x else m.get q := by
  by_cases h : q = p
  · subst h; simp
  · simp [h, PortMap.get_set_ne m h]

end Sys2Proof
end

