-- ==== Sys2Proof/Config.lean ====
section
/-! DEFINITION. What a configuration is (08 section 8.1), and the values the spec leaves open as constants without a body. -/

namespace Sys2Proof

/-- RUN or HALTED: the run state (01 R15, R16) and the start mode (01 R17). -/
inductive RunState where
  | run
  | halted
deriving DecidableEq, Repr

/-- The 14 fields of a channel profile (01 1.1, 02 2.1, 03 3.1). -/
structure ChannelProfile where
  /-- measurement-affecting: a channel that is not enabled is OFF. -/
  enabled : Bool
  /-- measurement-affecting: 2..255, in steps of 2 µs. -/
  settleSteps : Nat
  /-- measurement-affecting: 1..63. -/
  driveCode : Nat
  /-- measurement-affecting: 9..16 bits. -/
  resolution : Nat
  /-- measurement-affecting. -/
  quiet : Bool
  /-- touch threshold T, 1..4095. -/
  touch : Nat
  /-- hysteresis H, 0..255. -/
  hysteresis : Nat
  /-- noise band N, 0..255. -/
  noiseBand : Nat
  /-- negative band M, 1..4095. -/
  negativeBand : Nat
  /-- drift limit L, 0..255. -/
  driftLimit : Nat
  /-- low-run limit K, 1..255. -/
  lowRunLimit : Nat
  /-- press debounce P, 1..15. -/
  pressDebounce : Nat
  /-- release debounce Q, 1..15. -/
  releaseDebounce : Nat
  /-- hold limit, 0..255 in steps of 100 ms; 0 is no limit. -/
  holdLimit : Nat
deriving DecidableEq, Repr

/-- The test a term applies to its inputs (04 R60). -/
inductive TermFunction where
  | any
  | all
  | one
  | none
deriving DecidableEq, Repr

/-- A channel or a term, as the source of an event or the input of a term (04 4.1). -/
inductive Source where
  | channel (n : ChannelId)
  | term (k : TermId)
deriving DecidableEq, Repr

/-- A term definition (04 4.1). -/
structure TermDefinition where
  enabled : Bool
  function : TermFunction
  inputs : List Source
  holdSweeps : Nat
  window : Nat
deriving DecidableEq, Repr

/-- The hub settings (08 8.1). -/
structure HubSettings where
  /-- 5..500 ms. -/
  sweepPeriodMs : Nat
  startMode : RunState
  /-- the lease time in steps of 100 ms, 5..100 (08 R143). -/
  leaseSteps : Nat
deriving DecidableEq, Repr

/-- The level at which an attention line is active (05 5.5). -/
inductive Polarity where
  | activeLow
  | activeHigh
deriving DecidableEq, Repr

/-- A port profile (08 8.1). -/
structure PortProfile where
  rank : Nat
  polarity : Polarity
deriving DecidableEq, Repr

/-- A configuration: the active one, the staging one, or the content of an image slot (08 8.1). -/
structure Configuration where
  channels : Vector ChannelProfile 24
  /-- the listed channel numbers, in list order (01 1.4). -/
  scanList : List Nat
  terms : Vector TermDefinition 16
  hub : HubSettings
  ports : PortMap PortProfile
deriving DecidableEq, Repr

/-- The items a configuration is made of (08 8.1). -/
inductive Item where
  | channel (n : ChannelId)
  | term (k : TermId)
  | scanList
  | hub
  | port (p : Port)
deriving DecidableEq, Repr

/-- The commit validation constraints, in the order of 08 R146. -/
inductive Constraint where
  | chHysteresis
  | chNoiseBand
  | chRange
  | listLength
  | listDuplicate
  | listEntry
  | termInputCount
  | termDuplicate
  | termOrder
  | termWindow
deriving DecidableEq, Repr

/-- The CRC-16 of a slot's generation and configuration (09 R155). The spec gives no polynomial,
initial value or byte order, so it is a free function (log 9). -/
opaque Config.crc16 : BitVec 32 → Configuration → BitVec 16

/-- What the generation cells of a slot read after an erase or a programming phase was cut short
(09 R165, R167: "whatever part of the snapshot reached it"). Free, one value for each cut (log 14). -/
opaque Config.cutShortGeneration : Nat → BitVec 32

/-- What the configuration cells of a slot hold after an erase or a programming phase was cut short:
some configuration, or cells that hold none. Free, one value for each cut (log 14). -/
opaque Config.cutShortConfiguration : Nat → Option Configuration

end Sys2Proof
end

