-- ==== Sys2Proof/Machine/Factory.lean ====
section
/-! DEFINITION. The factory configuration, fixed in the part (09 R157). -/

namespace Sys2Proof.Machine

/-- The factory profile of a channel (09 R157): channels 0..7 are enabled, channels 8..23 are not. -/
def factoryProfile (n : ChannelId) : ChannelProfile where
  enabled := decide (n.val < 8)
  settleSteps := 20
  driveCode := 16
  resolution := 12
  quiet := false
  touch := 100
  hysteresis := 10
  noiseBand := 40
  negativeBand := 40
  driftLimit := 64
  lowRunLimit := 20
  pressDebounce := 3
  releaseDebounce := 3
  holdLimit := 0

/-- The factory definition of term k: disabled, ANY over channel k alone (04 R55, 09 R157). -/
def factoryTerm (k : TermId) : TermDefinition where
  enabled := false
  function := .any
  inputs := [.channel ⟨k.val, Nat.lt_of_lt_of_le k.isLt (by decide)⟩]
  holdSweeps := 0
  window := 0

/-- The factory hub settings (08 section 8.1): 20 ms, RUN, 2000 ms. -/
def factoryHub : HubSettings where
  sweepPeriodMs := 20
  startMode := .run
  leaseSteps := 20

/-- The factory port profile (08 section 8.1, 05 section 5.5). -/
def factoryPort : PortProfile where
  rank := 0
  polarity := .activeLow

/-- The factory configuration (09 R157). -/
def factoryConfiguration : Configuration where
  channels := Vector.ofFn factoryProfile
  scanList := List.range 24
  terms := Vector.ofFn factoryTerm
  hub := factoryHub
  ports := .const factoryPort

end Sys2Proof.Machine
end

