-- ==== Sys2Proof/Syntax.lean ====
section
/-! DEFINITION. The commands of the hub: one constructor of Instr for each row of spec/opcode_table.json. -/

namespace Sys2Proof

/-- Direction of a transaction (10 R171). -/
inductive Direction where
  | write
  | read
deriving DecidableEq, Repr

/-- The level of each port's strap as it is sampled: `true` is high, address 3Bh (10 R169). -/
abbrev Straps := PortMap Bool

/-- The parameter bytes of SET_CHANNEL after its channel, in the order of 10 R180. -/
structure ChannelParams where
  enabled : Byte
  settleSteps : Byte
  driveCode : Byte
  resolution : Byte
  quiet : Byte
  touch : BitVec 16
  hysteresis : Byte
  noiseBand : Byte
  negativeBand : BitVec 16
  driftLimit : Byte
  lowRunLimit : Byte
  pressDebounce : Byte
  releaseDebounce : Byte
  holdLimit : Byte
deriving DecidableEq, Repr

/-- The parameter bytes of SET_TERM after its term, in the order of 10 R180.
The input count byte is the length of `inputs`: a message in which it is not is refused BAD_LENGTH. -/
structure TermParams where
  enabled : Byte
  function : Byte
  holdSweeps : Byte
  window : Byte
  inputs : List Byte
deriving DecidableEq, Repr

/-- A command. The requests carry the port that takes them, the message tag (10 section 10.8) and their
parameters as the message carries them (10 R180), unchecked: the field-range gate is theirs to pass. -/
inductive Instr where
  /-- OPEN: masks, class mask, attention mode and threshold (05 R73). -/
  | openSession (p : Port) (tag : Byte) (channels : BitVec 24) (terms : BitVec 16) (classes mode threshold : Byte)
  /-- CLOSE (05 R76). -/
  | closeSession (p : Port) (tag : Byte)
  /-- SUBSCRIBE: masks and class mask (05 R80). -/
  | subscribe (p : Port) (tag : Byte) (channels : BitVec 24) (terms : BitVec 16) (classes : Byte)
  /-- READ_STATE (05 R82). -/
  | readState (p : Port) (tag : Byte)
  /-- READ_TRACKER: a channel (05 R84). -/
  | readTracker (p : Port) (tag : Byte) (channel : Byte)
  /-- READ_EVENTS: count and mode (06 R96). -/
  | readEvents (p : Port) (tag : Byte) (count mode : Byte)
  /-- ACK_EVENTS: a sequence number (06 R102). -/
  | ackEvents (p : Port) (tag : Byte) (sequence : BitVec 16)
  /-- SAMPLE: channel and sample tag (07 R115). -/
  | sample (p : Port) (tag : Byte) (channel sampleTag : Byte)
  /-- FETCH: a sample tag (07 R121). -/
  | fetch (p : Port) (tag : Byte) (sampleTag : Byte)
  /-- CANCEL: a sample tag (07 R123). -/
  | cancel (p : Port) (tag : Byte) (sampleTag : Byte)
  /-- TAKE_LEASE: preempt (08 R132). -/
  | takeLease (p : Port) (tag : Byte) (preempt : Byte)
  /-- RELEASE_LEASE (08 R135). -/
  | releaseLease (p : Port) (tag : Byte)
  /-- SET_CHANNEL: a channel and its profile (08 R141). -/
  | setChannel (p : Port) (tag : Byte) (channel : Byte) (profile : ChannelParams)
  /-- SET_SCANLIST: the listed channels; the count byte is the length of the list (08 R142). -/
  | setScanlist (p : Port) (tag : Byte) (entries : List Byte)
  /-- SET_TERM: a term and its definition (04 R56). -/
  | setTerm (p : Port) (tag : Byte) (term : Byte) (definition : TermParams)
  /-- SET_HUB: sweep period in ms, start mode, lease time in steps of 100 ms (08 R143). -/
  | setHub (p : Port) (tag : Byte) (period : BitVec 16) (startMode leaseSteps : Byte)
  /-- SET_PORT: a port and its profile (08 R143). -/
  | setPort (p : Port) (tag : Byte) (port rank polarity : Byte)
  /-- LOAD_STAGING: a source (08 R144). -/
  | loadStaging (p : Port) (tag : Byte) (source : Byte)
  /-- READ_STAGING: an item (08 R145). -/
  | readStaging (p : Port) (tag : Byte) (item : Byte)
  /-- READ_CONFIG: an item (08 R145). -/
  | readConfig (p : Port) (tag : Byte) (item : Byte)
  /-- COMMIT (08 R147). -/
  | commit (p : Port) (tag : Byte)
  /-- HALT (01 R15). -/
  | halt (p : Port) (tag : Byte)
  /-- RESUME (01 R16). -/
  | resume (p : Port) (tag : Byte)
  /-- STORE (09 R162). -/
  | store (p : Port) (tag : Byte)
  /-- RESTART (08 R154). -/
  | restart (p : Port) (tag : Byte)
  /-- READ_STATUS (11 R187). -/
  | readStatus (p : Port) (tag : Byte)
  /-- CLEAR_COUNTERS (11 R190). -/
  | clearCounters (p : Port) (tag : Byte)
  /-- IDENTIFY (11 R188). -/
  | identify (p : Port) (tag : Byte)
  /-- TRANSPORT_REFUSAL: the port receives a message (its bytes and the overflow mark) that fails a
  transport check (10 R173). -/
  | transportRefusal (p : Port) (message : List Byte) (overflow : Bool)
  /-- TRANSACTION_START: a start or repeated start condition at the port's pins carrying an address and
  a direction, with the data bytes the host writes in the transaction it begins (10 R171, R172; log 6). -/
  | transactionStart (p : Port) (address : BitVec 7) (direction : Direction) (written : List Byte)
  /-- TRANSACTION_END: the stop or repeated start condition that ends the port's transaction (10 R172). -/
  | transactionEnd (p : Port)
  /-- MEASUREMENT_COMPLETE: the measurement in progress reaches its end time and yields a raw count (01 R3). -/
  | measurementComplete (raw : BitVec 16)
  /-- SWEEP_TICK: the next tick of the sweep tick schedule (01 R10). -/
  | sweepTick
  /-- COMMIT_POINT: the commit point of an accepted commit (08 R150). -/
  | commitPoint
  /-- HOLD_LIMIT_EXPIRY: the running hold-limit timer of a channel reaches 0 (03 R46). -/
  | holdLimitExpiry (channel : ChannelId)
  /-- DISCARD_TIMER_EXPIRY: the discard timer of a port's entry, named by its tag, reaches 0 (07 R125). -/
  | discardTimerExpiry (p : Port) (sampleTag : Byte)
  /-- LEASE_TIMER_EXPIRY: the lease timer reaches 0 (08 R136). -/
  | leaseTimerExpiry
  /-- RESTART_DELAY_EXPIRY: the restart delay ends; the straps are sampled as the load begins (08 R154, 10 R169). -/
  | restartDelayExpiry (straps : Straps)
  /-- ERASING_END: the erase phase of a store ends (09 R164). -/
  | erasingEnd
  /-- PROGRAMMING_END: the programming phase of a store ends (09 R164). -/
  | programmingEnd
  /-- VERIFYING_END: the verify phase ends; the command carries what is read back from the target slot,
  its generation and its configuration, or no configuration where the cells hold none (09 R164; log 15). -/
  | verifyingEnd (generation : BitVec 32) (readBack : Option Configuration)
  /-- SUPPLY_LOW: the store-supply condition turns LOW (09 R165). -/
  | supplyLow
  /-- SUPPLY_GOOD: the store-supply condition returns to GOOD (09 R165). -/
  | supplyGood
  /-- POWER_RESET: the supply is applied, or falls far enough to reset the part (11 R185). -/
  | powerReset
  /-- LINE_RESET: the reset line is taken low (11 R185). -/
  | lineReset
  /-- RESET_END: the reset ends and the start-up load begins, sampling the straps (09 R158, 10 R169). -/
  | resetEnd (straps : Straps)
  /-- START_UP_LOAD_COMPLETE: the start-up load completes (09 R158, R159). -/
  | startUpLoadComplete
  /-- PULSE_END: the attention pulse of a port ends (05 R87). -/
  | pulseEnd (p : Port)
deriving DecidableEq, Repr

end Sys2Proof
end

