-- ==== Sys2Proof/Machine/State.lean ====
section
/-! DEFINITION. The state of the hub, block by block as 00 "Block overview" lists them, and the hub right after reset. -/

namespace Sys2Proof.Machine

/-- Why a step stops with a fault. The spec describes nothing that stops the hub (INVENTORY, Faults). -/
inductive Fault where
  /-- Raised by no meaning: it keeps the type inhabited. Safe, since nothing ends in it. -/
  | noneDescribed
deriving DecidableEq, Repr

/-- Why a command has no meaning. -/
inductive Refusal where
  /-- Raised by `exec` alone, for a command that has no meaning yet; no arm does. Safe: the model stops. -/
  | notModelled (mnemonic : String)
deriving DecidableEq, Repr

/-- The outcome of a command. -/
abbrev Result (σ : Type) := Host.Outcome σ Fault Refusal

/-! ### Measurement unit (01 section 1.2) -/

/-- The claimant a measurement serves; a sweep's claim carries its sweep number (01 section 1.2). -/
inductive ClaimKind where
  | sweep (number : BitVec 32)
  | fresh
deriving DecidableEq, Repr

/-- The first measurement of a claim, or the repeat of 01 R6. -/
inductive Retry where
  | first
  | repeated
deriving DecidableEq, Repr

/-- The record of the measurement in progress (01 section 1.2). -/
structure Measurement where
  kind : ClaimKind
  channel : ChannelId
  retry : Retry
  /-- the disturbance mark (01 R5). -/
  disturbed : Bool
  endTime : Nat
deriving DecidableEq, Repr

/-! ### Sweep sequencer (01 sections 1.4 to 1.6) -/

/-- The sweep sequencer. The sweep state is IN_SWEEP when it holds a position and BETWEEN when not. -/
structure Sequencer where
  run : RunState
  number : BitVec 32
  /-- the listed channel whose measurement the sweep claims next, or has claimed (01 section 1.5). -/
  position : Option ChannelId
  /-- the time of the next tick; absent while the schedule is stopped (01 R9). -/
  nextTick : Option Nat
deriving DecidableEq, Repr

/-! ### Channel trackers (02 section 2.1, 03 section 3.2) -/

/-- The seven channel states (03 section 3.2). -/
inductive ChannelState where
  | off
  | seeding
  | idle
  | pressPending
  | active
  | releasePending
  | fault
deriving DecidableEq, Repr

/-- The hold-limit timer (03 section 3.4): running to the time at which its remaining time is 0, or paused
with a remaining time. Times are in ticks of the timebase (log 1). -/
inductive HoldTimer where
  | stopped
  | running (expiry : Nat)
  | paused (remaining : Nat)
deriving DecidableEq, Repr

/-- The record of one channel (02 section 2.1). Its difference d is `Tracker.difference`. -/
structure Tracker where
  state : ChannelState
  baseline : Option Nat
  lastRaw : Option Nat
  bucket : Int
  lowRun : Nat
  debounce : Option Nat
  outOfRangeRun : Nat
  reseed : Bool
  activeSince : Option (BitVec 32)
  holdTimer : HoldTimer
deriving DecidableEq, Repr

/-! ### Term evaluator (04 section 4.2) -/

/-- The five term states (04 section 4.2). -/
inductive TermState where
  | off
  | false
  | arming
  | true
  | blocked
deriving DecidableEq, Repr

/-- The record of one term (04 section 4.2). -/
structure TermRecord where
  state : TermState
  arming : Option Nat
  trueSince : Option (BitVec 32)
deriving DecidableEq, Repr

/-! ### Delivery unit (05 section 5.1, 06 section 6.1) -/

/-- The attention mode (05 section 5.1). -/
inductive AttentionMode where
  | level
  | pulse
deriving DecidableEq, Repr

/-- The pulse re-arm flag (05 R87). -/
inductive Rearm where
  | armed
  | spent
deriving DecidableEq, Repr

/-- The record of an open session (05 section 5.1). Bit n of a mask is the mark of channel or term n. -/
structure Session where
  channelMask : BitVec 24
  termMask : BitVec 16
  /-- the class TRANSITIONS is marked. -/
  transitions : Bool
  /-- the class MAINTENANCE is marked. -/
  maintenance : Bool
  mode : AttentionMode
  threshold : Nat
  /-- present in PULSE mode. -/
  rearm : Option Rearm
deriving DecidableEq, Repr

/-- The causes of CH_RELEASE and TM_FALSE (10 R184). -/
inductive Cause where
  | normal
  | holdLimit
  | recal
  | config
  | unblock
deriving DecidableEq, Repr

/-- The outcome a LEASE notice carries (05 R79). -/
inductive LeaseOutcome where
  | preempted
  | expired
  | committed
deriving DecidableEq, Repr

/-- The result of a store (09 R166). -/
inductive StoreResult where
  | ok
  | verifyFail
  | supplyFail
deriving DecidableEq, Repr

/-- What an entry reports: one constructor for each kind of 06 section 6.1, with the source, state and
detail value that kind carries where they are not fixed by the kind. -/
inductive Report where
  | chPress (n : ChannelId)
  | chRelease (n : ChannelId) (state : ChannelState) (cause : Cause)
  | chRecal (n : ChannelId)
  | chFault (n : ChannelId)
  | chRecover (n : ChannelId)
  | tmTrue (k : TermId)
  | tmFalse (k : TermId) (state : TermState) (cause : Cause)
  | tmBlocked (k : TermId)
  | resyncChannel (n : ChannelId) (state : ChannelState)
  | resyncTerm (k : TermId) (state : TermState)
  | epoch (e : BitVec 8)
  | lease (outcome : LeaseOutcome)
  | store (result : StoreResult)
deriving DecidableEq, Repr

/-- A queue entry (06 section 6.1). -/
structure Entry where
  sequence : BitVec 16
  report : Report
  /-- the resync mark. -/
  resync : Bool
  stamp : BitVec 16
  /-- the read flag: `true` is READ. -/
  read : Bool
deriving DecidableEq, Repr

/-- The lapsed set of a port (06 section 6.4): a mark for each possible member, and the value a slot keeps. -/
structure Lapsed where
  epoch : Bool
  lease : Option LeaseOutcome
  store : Option StoreResult
  channels : BitVec 24
  terms : BitVec 16
deriving DecidableEq, Repr

/-- A port's attention line (05 section 5.5). -/
structure AttentionLine where
  /-- the hub drives the line; it is released from a reset to the end of the load (05 R85). -/
  driven : Bool
  /-- the condition it is driven to. -/
  active : Bool
  /-- the polarity it is driven at. -/
  polarity : Polarity
  /-- the time at which the pulse in progress ends. -/
  pulseEnd : Option Nat
  /-- the end time of an older pulse that was in progress when the pulse in progress began (05 R87): it is still due
  if a READ_EVENTS of the same moment leaves that later pulse not due (05 R88; log 25). -/
  overtaken : Option Nat
deriving DecidableEq, Repr

/-- What the delivery unit holds for one port. The session is CLOSED when it is absent. -/
structure Delivery where
  session : Option Session
  queue : List Entry
  lapsed : Lapsed
  nextSeq : BitVec 16
  /-- an entry has been appended since the session was opened (05 R82). -/
  appended : Bool
  line : AttentionLine
  /-- the time of the re-open that began the open session; absent if an OPEN on a CLOSED port began it. An append of
  the same moment leaves the line inactive (05 R88; log 26). -/
  reopened : Option Nat
deriving DecidableEq, Repr

/-! ### Fresh-sample table (07 section 7.1) -/

/-- The outcome a READY entry holds: its sample status and result record (07 R118, R119). -/
inductive SampleResult where
  | ok (raw : Nat) (baseline : Option Nat) (state : ChannelState)
  | outOfRange (raw : Nat)
  | disturbed
  | channelOff
deriving DecidableEq, Repr

/-- The state of an entry that is not FREE (07 R113). The discard timer of a READY entry runs to the time
at which its remaining time is 0; it is STOPPED in the other states. -/
inductive FreshState where
  | waiting
  | measuring
  | ready (result : SampleResult) (discardAt : Nat)
deriving DecidableEq, Repr

/-- An entry of the fresh-sample table that is not FREE (07 section 7.1). -/
structure FreshEntry where
  owner : Port
  tag : Byte
  channel : ChannelId
  state : FreshState
deriving DecidableEq, Repr

/-! ### Lease unit (08 section 8.1) -/

/-- The lease record (08 section 8.1): in HELD with the time at which the lease timer expires. -/
inductive Lease where
  | free
  | held (holder : Port) (staging : Configuration) (dirty : Bool) (expiry : Nat)
  | committing (holder : Option Port) (staging : Configuration) (dirty : Bool)
deriving DecidableEq, Repr

/-! ### Image store controller (09) -/

/-- The two image slots. -/
inductive SlotId where
  | slot0
  | slot1
deriving DecidableEq, Repr

/-- An image slot (09 section 9.1). The configuration is absent where the cells hold none; the check is
absent where it is erased, and then matches no content. -/
structure Slot where
  generation : BitVec 32
  configuration : Option Configuration
  check : Option (BitVec 16)
deriving DecidableEq, Repr

/-- The phases of a store (09 section 9.6). -/
inductive StorePhase where
  | erasing
  | programming
  | verifying
deriving DecidableEq, Repr

/-- The record of the store in progress (09 section 9.4). -/
structure StoreRecord where
  phase : StorePhase
  snapshot : Configuration
  port : Port
  target : SlotId
  generation : BitVec 32
  endTime : Nat
deriving DecidableEq, Repr

/-- The image store controller. The store state is IDLE when it holds no record. -/
structure ImageStore where
  slot0 : Slot
  slot1 : Slot
  store : Option StoreRecord
  lastResult : Option StoreResult
  /-- the model's own: how many stores were cut short so far, the argument of the free cells (log 14). -/
  cuts : Nat
deriving DecidableEq, Repr

/-- The store-supply condition (09 R165). -/
inductive Supply where
  | good
  | low
deriving DecidableEq, Repr

/-! ### Status block (11 section 11.1) -/

/-- The reset cause (11 R185). -/
inductive ResetCause where
  | power
  | line
  | restart
deriving DecidableEq, Repr

/-- The configuration source (11 R186). -/
inductive ConfigSource where
  | slot0
  | slot1
  | factory
deriving DecidableEq, Repr

/-- The ten counters (11 section 11.3). -/
structure Counters where
  sweepOverruns : BitVec 16
  disturbedSkips : BitVec 16
  outOfRange : BitVec 16
  freshDiscards : BitVec 16
  lapses : PortMap (BitVec 16)
  checkErrors : PortMap (BitVec 16)
deriving DecidableEq, Repr

/-- What the status block itself holds (11 section 11.1). -/
structure Status where
  cause : ResetCause
  source : ConfigSource
  counters : Counters
deriving DecidableEq, Repr

/-! ### Port interfaces (10) -/

/-- The status of a response (10 R184). -/
inductive StatusCode where
  | ok
  | deferred
  | pending
  | accepted
  | granted
  | noChange
  | noSession
  | notHolder
  | leaseBusy
  | busy
  | badValue
  | invalid
  | channelOff
  | tagInUse
  | portLimit
  | tableFull
  | unknownTag
  | badSequence
  | notDelivered
  | noImage
  | lowSupply
  | generationLimit
  | checkError
  | frameError
  | badLength
  | unknownRequest
  | noResponse
deriving DecidableEq, Repr

/-- A response: its status, echoed tag and payload; its length and check byte follow from them
(10 R181, `Response.bytes`). -/
structure Response where
  status : StatusCode
  tag : Byte
  payload : List Byte
deriving DecidableEq, Repr

/-- The transaction indication (10 R171). -/
inductive Indication where
  | none
  | write
  | read
deriving DecidableEq, Repr

/-- A port interface (10). -/
structure PortInterface where
  address : BitVec 7
  indication : Indication
  buffer : List Byte
  overflow : Bool
  held : Option Response
deriving DecidableEq, Repr

/-! ### The hub -/

/-- Where the hub stands between a reset and its work (09 R158, R159). -/
inductive Phase where
  /-- a reset is in progress. -/
  | inReset
  /-- the start-up load runs, to the time given. -/
  | loading (endTime : Nat)
  /-- the load has completed: the ports acknowledge their addresses. -/
  | running
deriving DecidableEq, Repr

/-- The state of the hub. -/
structure State where
  /-- the commands that wait, first in, first out. -/
  pending : List Instr
  /-- the timebase, in ticks of 0.25 µs (log 1). -/
  now : Nat
  phase : Phase
  /-- the measurement in progress; the unit is IDLE when it is absent. -/
  unit : Option Measurement
  sequencer : Sequencer
  trackers : Vector Tracker 24
  terms : Vector TermRecord 16
  delivery : PortMap Delivery
  /-- the entries not FREE, in creation order, oldest first (07 R113). -/
  fresh : List FreshEntry
  lease : Lease
  /-- the end time of the restart delay while it runs (08 R154). -/
  restartDelay : Option Nat
  /-- the active configuration; absent from a reset to the end of its load (09 R158). -/
  active : Option Configuration
  epoch : BitVec 8
  images : ImageStore
  supply : Supply
  status : Status
  ports : PortMap PortInterface
deriving DecidableEq, Repr

/-! ### Values after reset -/

/-- A tracker record after reset or re-initialisation, but for its state (02 R37). -/
def blankTracker (state : ChannelState) : Tracker where
  state := state
  baseline := none
  lastRaw := none
  bucket := 0
  lowRun := 0
  debounce := none
  outOfRangeRun := 0
  reseed := false
  activeSince := none
  holdTimer := .stopped

/-- A term record after reset, but for its state (04 R71). -/
def blankTerm (state : TermState) : TermRecord where
  state := state
  arming := none
  trueSince := none

/-- The empty lapsed set (06 R112). -/
def Lapsed.empty : Lapsed where
  epoch := false
  lease := none
  store := none
  channels := 0
  terms := 0

/-- What the delivery unit holds for a port whose session is CLOSED (05 R77, R81, 06 R112). -/
def Delivery.closed (line : AttentionLine) : Delivery where
  session := none
  queue := []
  lapsed := .empty
  nextSeq := 1
  appended := false
  line := line
  reopened := none

/-- The counters after every reset (11 R189). -/
def Counters.zero : Counters where
  sweepOverruns := 0
  disturbedSkips := 0
  outOfRange := 0
  freshDiscards := 0
  lapses := .const 0
  checkErrors := .const 0

/-- A slot that has never been written (09 R155). -/
def Slot.erased : Slot where
  generation := 0xFFFFFFFF
  configuration := none
  check := none

/-- The hub right after reset: a part as delivered, both slots erased (09 R155), at the completion of the
start-up load that follows its first POWER reset, with the factory configuration in force (09 R158, R159;
the tables "after every reset" of 01 R21, 02 R37, 04 R71, 05 R81, 06 R112, 07 R129, 08 R130, 09 R161,
10 R170, 11 R189). What the spec leaves open here is log 8. -/
def State.reset : State where
  pending := []
  now := 0
  phase := .running
  unit := none
  sequencer := { run := .run, number := 0, position := none, nextTick := some 80000 }
  trackers := Vector.ofFn fun n => blankTracker (if n.val < 8 then .seeding else .off)
  terms := Vector.ofFn fun _ => blankTerm .off
  delivery := .const (.closed { driven := true, active := false, polarity := .activeLow, pulseEnd := none, overtaken := none })
  fresh := []
  lease := .free
  restartDelay := none
  active := some factoryConfiguration
  epoch := 0
  images := { slot0 := .erased, slot1 := .erased, store := none, lastResult := none, cuts := 0 }
  supply := .good
  status := { cause := .power, source := .factory, counters := .zero }
  ports := .const { address := 0x3A, indication := .none, buffer := [], overflow := false, held := none }

end Sys2Proof.Machine
end

