-- ==== Sys2Proof/Machine/Flags.lean ====
section
/-! DEFINITION. Counters that saturate (11 R189), the UNREAD count, and the attention line that follows it (05 R85 to R88). -/

namespace Sys2Proof.Machine

/-- One tick of the timebase is 0.25 µs, the unit of the integration phase (01 R1; log 1). -/
def microseconds (n : Nat) : Nat := 4 * n

/-- A number of milliseconds in ticks of the timebase. -/
def milliseconds (n : Nat) : Nat := 4000 * n

/-- The remaining time in whole ms of a timer, rounded up, at least 1 while it has not been taken as
expired (02 section 2.1, 03 section 3.4: "1 ms to 25500 ms"; log 11). -/
def remainingMs (ticks : Nat) : Nat := max 1 ((ticks + 3999) / 4000)

/-- A counter is 16 bits wide and saturates (11 R189). -/
def saturatingIncrement (n : BitVec 16) : BitVec 16 := if n = 0xFFFF then n else n + 1

/-! ### The attention line -/

/-- The UNREAD count of a port (05 section 5.5). -/
def Delivery.unread (d : Delivery) : Nat := (d.queue.filter fun e => !e.read).length

/-- LEVEL mode: the line is active while the UNREAD count is at or above the threshold (05 R86). -/
def Delivery.followLevel (d : Delivery) (threshold : Nat) : Delivery :=
  { d with line := { d.line with active := decide (threshold ≤ d.unread) } }

/-- How long an attention pulse lasts: 10 µs (05 R87). -/
def pulseTicks : Nat := microseconds 10

/-- A pulse begins; one that is in progress is overtaken, and the line stays active until the later one ends (05 R87). -/
def AttentionLine.beginPulse (l : AttentionLine) (now : Nat) : AttentionLine :=
  { l with active := true, pulseEnd := some (now + pulseTicks), overtaken := l.pulseEnd }

/-- A pulse that began at this very moment is not due when a READ_EVENTS is taken after the append that began it: the line is as
that pulse found it (05 R88; log 25). -/
def AttentionLine.withdrawPulse (l : AttentionLine) (now : Nat) : AttentionLine :=
  if l.pulseEnd = some (now + pulseTicks) then
    { l with active := l.overtaken.isSome, pulseEnd := l.overtaken, overtaken := none }
  else l

/-- The session was re-opened at this very moment: an append that falls together with the re-open leaves the line inactive
with no pulse in progress, whichever is taken first (05 R88; log 26). -/
def Delivery.justReopened (d : Delivery) (now : Nat) : Bool := decide (d.reopened = some now)

/-- The line after an append (05 R86 to R88): in LEVEL mode it follows the UNREAD count; in PULSE mode the append that
brings the count to the threshold spends an ARMED flag on a pulse. Neither reaches a line whose session was re-opened at the
same moment; the flag is SPENT there too, which nothing can tell (logs 25, 26). -/
def Delivery.lineAfterAppend (d : Delivery) (now : Nat) : Delivery :=
  match d.session with
  | none => d
  | some se =>
    match se.mode with
    | .level => if d.justReopened now then d else d.followLevel se.threshold
    | .pulse =>
      if d.unread = se.threshold ∧ se.rearm = some .armed then
        { d with
          session := some { se with rearm := some .spent }
          line := if d.justReopened now then d.line else d.line.beginPulse now }
      else d

/-- The line after a READ_EVENTS has marked entries (05 R86 to R88): in LEVEL mode it follows the UNREAD count; in PULSE mode
a pulse that an append of the same moment began is withdrawn, and the flag becomes ARMED again when the count is below the
threshold. -/
def Delivery.lineAfterRead (d : Delivery) (now : Nat) : Delivery :=
  match d.session with
  | none => d
  | some se =>
    match se.mode with
    | .level => d.followLevel se.threshold
    | .pulse =>
      { d with
        session := some (if d.unread < se.threshold then { se with rearm := some .armed } else se)
        line := d.line.withdrawPulse now }

/-- The line driven inactive, with no pulse in progress (05 R73, R74, R76). -/
def AttentionLine.quiet (l : AttentionLine) : AttentionLine := { l with active := false, pulseEnd := none, overtaken := none }

/-- The line released, from the beginning of a reset to the end of the load (05 R85). -/
def AttentionLine.released (l : AttentionLine) : AttentionLine :=
  { l with driven := false, active := false, pulseEnd := none, overtaken := none }

/-- The level the hub drives the line to, high or not; `none` while the line is released (05 R85). -/
def AttentionLine.level (l : AttentionLine) : Option Bool :=
  if l.driven then
    some (match l.polarity with
      | .activeLow => !l.active
      | .activeHigh => l.active)
  else none

end Sys2Proof.Machine
end

