-- ==== Sys2Proof/Decode.lean ====
section
/-! DEFINITION. The hub's own decoder: a received message to a request or to the transport status that refuses it
(10 R173, R179, R180, R184), and its inverse, the message of a request; and decodeTableWord, over the rows that give bits. -/

namespace Sys2Proof

/-- Why the transport checks refuse a message (10 R173), in the order of the checks. -/
inductive TransportError where
  /-- FRAME_ERROR. -/
  | frame
  /-- CHECK_ERROR. -/
  | check
  /-- UNKNOWN_REQUEST. -/
  | code
  /-- BAD_LENGTH. -/
  | length
deriving DecidableEq, Repr

/-- The sum of all bytes modulo 256 (10 section 10.8). -/
def byteSum : List Byte → Byte
  | [] => 0
  | b :: bs => b + byteSum bs

/-- The check byte that makes the sum of a message 0 modulo 256 (10 section 10.8, R181). -/
def checkByte (body : List Byte) : Byte := 0 - byteSum body

/-- The bytes of a number, most significant first (10 R179). -/
def bytesOf16 (n : BitVec 16) : List Byte := [n.extractLsb' 8 8, n.extractLsb' 0 8]

/-- The bytes of a channel mask, channels 23..16 first (10 R179). -/
def bytesOf24 (n : BitVec 24) : List Byte := [n.extractLsb' 16 8, n.extractLsb' 8 8, n.extractLsb' 0 8]

/-- The bytes of a number of four bytes, most significant first (10 R179). -/
def bytesOf32 (n : BitVec 32) : List Byte :=
  [n.extractLsb' 24 8, n.extractLsb' 16 8, n.extractLsb' 8 8, n.extractLsb' 0 8]

/-- The request code table (10 R184). -/
def isRequestCode (code : Byte) : Bool :=
  [0x01#8, 0x02#8, 0x03#8, 0x04#8, 0x05#8, 0x06#8, 0x07#8, 0x10#8, 0x11#8, 0x12#8,
   0x20#8, 0x21#8, 0x22#8, 0x23#8, 0x24#8, 0x25#8, 0x26#8, 0x27#8, 0x28#8, 0x29#8,
   0x2A#8, 0x2B#8, 0x2C#8, 0x30#8, 0x31#8, 0x40#8, 0x41#8, 0x42#8].contains code

/-- A request of no parameters (10 R180). -/
def noParams (i : Instr) : List Byte → Option Instr
  | [] => some i
  | _ :: _ => none

/-- The request of a code and its parameter bytes, `none` where the parameter bytes do not fit the
code's layout (10 R180). -/
def decodeParams (p : Port) (code tag : Byte) (params : List Byte) : Option Instr :=
  match code.toNat with
  | 0x01 =>
    match params with
    | [c2, c1, c0, t1, t0, classes, mode, threshold] =>
        some (.openSession p tag (c2 ++ c1 ++ c0) (t1 ++ t0) classes mode threshold)
    | _ => none
  | 0x02 => noParams (.closeSession p tag) params
  | 0x03 =>
    match params with
    | [c2, c1, c0, t1, t0, classes] =>
        some (.subscribe p tag (c2 ++ c1 ++ c0) (t1 ++ t0) classes)
    | _ => none
  | 0x04 => noParams (.readState p tag) params
  | 0x05 =>
    match params with
    | [channel] => some (.readTracker p tag channel)
    | _ => none
  | 0x06 =>
    match params with
    | [count, mode] => some (.readEvents p tag count mode)
    | _ => none
  | 0x07 =>
    match params with
    | [s1, s0] => some (.ackEvents p tag (s1 ++ s0))
    | _ => none
  | 0x10 =>
    match params with
    | [channel, sampleTag] => some (.sample p tag channel sampleTag)
    | _ => none
  | 0x11 =>
    match params with
    | [sampleTag] => some (.fetch p tag sampleTag)
    | _ => none
  | 0x12 =>
    match params with
    | [sampleTag] => some (.cancel p tag sampleTag)
    | _ => none
  | 0x20 =>
    match params with
    | [preempt] => some (.takeLease p tag preempt)
    | _ => none
  | 0x21 => noParams (.releaseLease p tag) params
  | 0x22 =>
    match params with
    | [channel, enabled, settle, drive, resolution, quiet, t1, t0, h, n, m1, m0, l, k, pd, q, hold] =>
        some (.setChannel p tag channel ⟨enabled, settle, drive, resolution, quiet, t1 ++ t0, h, n, m1 ++ m0, l, k, pd, q, hold⟩)
    | _ => none
  | 0x23 =>
    match params with
    | count :: entries =>
        if entries.length = count.toNat then some (.setScanlist p tag entries) else none
    | _ => none
  | 0x24 =>
    match params with
    | term :: enabled :: function :: holdSweeps :: window :: count :: inputs =>
        if inputs.length = count.toNat then some (.setTerm p tag term ⟨enabled, function, holdSweeps, window, inputs⟩) else none
    | _ => none
  | 0x25 =>
    match params with
    | [p1, p0, startMode, leaseSteps] => some (.setHub p tag (p1 ++ p0) startMode leaseSteps)
    | _ => none
  | 0x26 =>
    match params with
    | [port, rank, polarity] => some (.setPort p tag port rank polarity)
    | _ => none
  | 0x27 =>
    match params with
    | [source] => some (.loadStaging p tag source)
    | _ => none
  | 0x28 =>
    match params with
    | [item] => some (.readStaging p tag item)
    | _ => none
  | 0x29 =>
    match params with
    | [item] => some (.readConfig p tag item)
    | _ => none
  | 0x2A => noParams (.commit p tag) params
  | 0x2B => noParams (.halt p tag) params
  | 0x2C => noParams (.resume p tag) params
  | 0x30 => noParams (.store p tag) params
  | 0x31 => noParams (.restart p tag) params
  | 0x40 => noParams (.readStatus p tag) params
  | 0x41 => noParams (.clearCounters p tag) params
  | 0x42 => noParams (.identify p tag) params
  | _ => none

/-- The transport checks on a received message, and the request it is taken as (10 R173): frame, check
byte, code, parameter count, in this order. -/
def decodeMessage (p : Port) (message : List Byte) (overflow : Bool) : Except TransportError Instr :=
  match message with
  | [] => .error .frame
  | length :: rest =>
    if overflow || length.toNat < 3 || 40 < length.toNat || rest.length != length.toNat then .error .frame
    else if byteSum message ≠ 0 then .error .check
    else match rest with
      | code :: tag :: tail =>
        if !isRequestCode code then .error .code
        else match decodeParams p code tag tail.dropLast with
          | some i => .ok i
          | none => .error .length
      | _ => .error .frame

/-- The tag echoed in the answer to a refused message: its third byte, or 00h (10 R173). -/
def echoedTag (message : List Byte) : Byte := message.getD 2 0

/-- The request code, tag and parameter bytes of a request (10 R180, R184); `none` for a command that
is no request. -/
def requestParts : Instr → Option (Byte × Byte × List Byte)
  | .openSession _ tag c t classes mode threshold =>
      some (0x01, tag, bytesOf24 c ++ bytesOf16 t ++ [classes, mode, threshold])
  | .closeSession _ tag => some (0x02, tag, [])
  | .subscribe _ tag c t classes => some (0x03, tag, bytesOf24 c ++ bytesOf16 t ++ [classes])
  | .readState _ tag => some (0x04, tag, [])
  | .readTracker _ tag channel => some (0x05, tag, [channel])
  | .readEvents _ tag count mode => some (0x06, tag, [count, mode])
  | .ackEvents _ tag sequence => some (0x07, tag, bytesOf16 sequence)
  | .sample _ tag channel sampleTag => some (0x10, tag, [channel, sampleTag])
  | .fetch _ tag sampleTag => some (0x11, tag, [sampleTag])
  | .cancel _ tag sampleTag => some (0x12, tag, [sampleTag])
  | .takeLease _ tag preempt => some (0x20, tag, [preempt])
  | .releaseLease _ tag => some (0x21, tag, [])
  | .setChannel _ tag channel f =>
      some (0x22, tag,
        [channel, f.enabled, f.settleSteps, f.driveCode, f.resolution, f.quiet] ++ bytesOf16 f.touch ++
        [f.hysteresis, f.noiseBand] ++ bytesOf16 f.negativeBand ++
        [f.driftLimit, f.lowRunLimit, f.pressDebounce, f.releaseDebounce, f.holdLimit])
  | .setScanlist _ tag entries => some (0x23, tag, BitVec.ofNat 8 entries.length :: entries)
  | .setTerm _ tag term d =>
      some (0x24, tag,
        [term, d.enabled, d.function, d.holdSweeps, d.window, BitVec.ofNat 8 d.inputs.length] ++ d.inputs)
  | .setHub _ tag period startMode leaseSteps => some (0x25, tag, bytesOf16 period ++ [startMode, leaseSteps])
  | .setPort _ tag port rank polarity => some (0x26, tag, [port, rank, polarity])
  | .loadStaging _ tag source => some (0x27, tag, [source])
  | .readStaging _ tag item => some (0x28, tag, [item])
  | .readConfig _ tag item => some (0x29, tag, [item])
  | .commit _ tag => some (0x2A, tag, [])
  | .halt _ tag => some (0x2B, tag, [])
  | .resume _ tag => some (0x2C, tag, [])
  | .store _ tag => some (0x30, tag, [])
  | .restart _ tag => some (0x31, tag, [])
  | .readStatus _ tag => some (0x40, tag, [])
  | .clearCounters _ tag => some (0x41, tag, [])
  | .identify _ tag => some (0x42, tag, [])
  | .transportRefusal _ _ _ | .transactionStart _ _ _ _ | .transactionEnd _ | .measurementComplete _
  | .sweepTick | .commitPoint | .holdLimitExpiry _ | .discardTimerExpiry _ _ | .leaseTimerExpiry
  | .restartDelayExpiry _ | .erasingEnd | .programmingEnd | .verifyingEnd _ _ | .supplyLow | .supplyGood
  | .powerReset | .lineReset | .resetEnd _ | .startUpLoadComplete | .pulseEnd _ => none

/-- The port a request is taken on; `none` for a command that is no request. -/
def requestPort : Instr → Option Port
  | .openSession p _ _ _ _ _ _ | .closeSession p _ | .subscribe p _ _ _ _ | .readState p _
  | .readTracker p _ _ | .readEvents p _ _ _ | .ackEvents p _ _ | .sample p _ _ _ | .fetch p _ _
  | .cancel p _ _ | .takeLease p _ _ | .releaseLease p _ | .setChannel p _ _ _ | .setScanlist p _ _
  | .setTerm p _ _ _ | .setHub p _ _ _ _ | .setPort p _ _ _ _ | .loadStaging p _ _ | .readStaging p _ _
  | .readConfig p _ _ | .commit p _ | .halt p _ | .resume p _ | .store p _ | .restart p _
  | .readStatus p _ | .clearCounters p _ | .identify p _ => some p
  | .transportRefusal _ _ _ | .transactionStart _ _ _ _ | .transactionEnd _ | .measurementComplete _
  | .sweepTick | .commitPoint | .holdLimitExpiry _ | .discardTimerExpiry _ _ | .leaseTimerExpiry
  | .restartDelayExpiry _ | .erasingEnd | .programmingEnd | .verifyingEnd _ _ | .supplyLow | .supplyGood
  | .powerReset | .lineReset | .resetEnd _ | .startUpLoadComplete | .pulseEnd _ => none

/-- The message of a request: length, code, tag, parameters, check byte (10 section 10.8). -/
def encodeMessage (i : Instr) : Option (List Byte) :=
  match requestParts i with
  | none => none
  | some (code, tag, params) =>
    let body := BitVec.ofNat 8 (params.length + 3) :: code :: tag :: params
    some (body ++ [checkByte body])

/-- The command that a word spells by the bits of spec/opcode_table.json. No row of the table gives
bits, so no word spells a command. -/
def decodeTableWord (_nbits _w : Nat) : Option Instr := none

end Sys2Proof
end

