-- ==== Sys2Proof/Machine/Operands.lean ====
section
/-! DEFINITION. Field encoding: what a parameter byte stands for, which bytes are in range, and the bytes of every
field of a response (10 R179 to R184). -/

namespace Sys2Proof.Machine

/-! ### Parameter bytes to values (10 R179, R184): `none` where the byte is no code of its table -/

/-- no, yes. -/
def bool? (b : Byte) : Option Bool :=
  match b.toNat with
  | 0x00 => some false
  | 0x01 => some true
  | _ => none

/-- The attention mode. -/
def attentionMode? (b : Byte) : Option AttentionMode :=
  match b.toNat with
  | 0x00 => some .level
  | 0x01 => some .pulse
  | _ => none

/-- The attention polarity. -/
def polarity? (b : Byte) : Option Polarity :=
  match b.toNat with
  | 0x00 => some .activeLow
  | 0x01 => some .activeHigh
  | _ => none

/-- The start mode. -/
def runState? (b : Byte) : Option RunState :=
  match b.toNat with
  | 0x00 => some .run
  | 0x01 => some .halted
  | _ => none

/-- The function of a term. -/
def function? (b : Byte) : Option TermFunction :=
  match b.toNat with
  | 0x00 => some .any
  | 0x01 => some .all
  | 0x02 => some .one
  | 0x03 => some .none
  | _ => none

/-- The READ_EVENTS mode. -/
inductive ReadMode where
  | next
  | fromOldest
deriving DecidableEq, Repr

/-- The READ_EVENTS mode of its byte. -/
def readMode? (b : Byte) : Option ReadMode :=
  match b.toNat with
  | 0x00 => some .next
  | 0x01 => some .fromOldest
  | _ => none

/-- The LOAD_STAGING source. -/
inductive StagingSource where
  | active
  | image
  | factory
deriving DecidableEq, Repr

/-- The LOAD_STAGING source of its byte. -/
def stagingSource? (b : Byte) : Option StagingSource :=
  match b.toNat with
  | 0x00 => some .active
  | 0x01 => some .image
  | 0x02 => some .factory
  | _ => none

/-- A port. -/
def port? (b : Byte) : Option Port :=
  match b.toNat with
  | 0x00 => some .a
  | 0x01 => some .b
  | 0x02 => some .c
  | _ => none

/-- A channel number, 0..23. -/
def channel? (n : Nat) : Option ChannelId := if h : n < 24 then some ⟨n, h⟩ else none

/-- A term number, 0..15. -/
def term? (n : Nat) : Option TermId := if h : n < 16 then some ⟨n, h⟩ else none

/-- An input source: a channel 00h..17h or a term 20h..2Fh (10 R180). -/
def source? (b : Byte) : Option Source :=
  match channel? b.toNat with
  | some n => some (.channel n)
  | none => if 0x20 ≤ b.toNat then (term? (b.toNat - 0x20)).map .term else none

/-- An item of READ_STAGING and READ_CONFIG (10 R184). -/
def item? (b : Byte) : Option Item :=
  match b.toNat with
  | 0x40 => some .scanList
  | 0x41 => some .hub
  | 0x50 => some (.port .a)
  | 0x51 => some (.port .b)
  | 0x52 => some (.port .c)
  | _ =>
    match source? b with
    | some (.channel n) => some (.channel n)
    | some (.term k) => some (.term k)
    | none => none

/-! ### The field-range gate (10 R175, R179) -/

/-- The offset of the first field that fails, of fields given with their offsets in the order of the
request's rule. -/
def firstBad : List (Nat × Bool) → Option Nat
  | [] => none
  | (offset, inRange) :: rest => if inRange then firstBad rest else some offset

/-- lo..hi, both included. -/
def between (lo n hi : Nat) : Bool := decide (lo ≤ n) && decide (n ≤ hi)

/-- A class mask names TRANSITIONS (01h) and MAINTENANCE (02h) alone (10 R179). -/
def classMaskOk (b : Byte) : Bool := decide (b.toNat ≤ 3)

/-- The fields of a channel profile with their offsets in SET_CHANNEL, in the order of 08 R141, against
the ranges of 01 1.1, 02 2.1 and 03 3.1. -/
def channelFields (f : ChannelParams) : List (Nat × Bool) :=
  [ (1, (bool? f.enabled).isSome),
    (2, between 2 f.settleSteps.toNat 255),
    (3, between 1 f.driveCode.toNat 63),
    (4, between 9 f.resolution.toNat 16),
    (5, (bool? f.quiet).isSome),
    (6, between 1 f.touch.toNat 4095),
    (8, between 0 f.hysteresis.toNat 255),
    (9, between 0 f.noiseBand.toNat 255),
    (10, between 1 f.negativeBand.toNat 4095),
    (12, between 0 f.driftLimit.toNat 255),
    (13, between 1 f.lowRunLimit.toNat 255),
    (14, between 1 f.pressDebounce.toNat 15),
    (15, between 1 f.releaseDebounce.toNat 15),
    (16, between 0 f.holdLimit.toNat 255) ]

/-- The profile that the parameter bytes of SET_CHANNEL carry. -/
def profileOf (f : ChannelParams) : ChannelProfile where
  enabled := (bool? f.enabled).getD false
  settleSteps := f.settleSteps.toNat
  driveCode := f.driveCode.toNat
  resolution := f.resolution.toNat
  quiet := (bool? f.quiet).getD false
  touch := f.touch.toNat
  hysteresis := f.hysteresis.toNat
  noiseBand := f.noiseBand.toNat
  negativeBand := f.negativeBand.toNat
  driftLimit := f.driftLimit.toNat
  lowRunLimit := f.lowRunLimit.toNat
  pressDebounce := f.pressDebounce.toNat
  releaseDebounce := f.releaseDebounce.toNat
  holdLimit := f.holdLimit.toNat

/-- The entries of a byte list with offsets counted up from the first one's. -/
def offsetFields (first : Nat) (ok : Byte → Bool) : List Byte → List (Nat × Bool)
  | [] => []
  | b :: bs => (first, ok b) :: offsetFields (first + 1) ok bs

/-- The fields of a term definition with their offsets in SET_TERM, in the order of 04 R56: enabled,
function, count of inputs, each input, hold sweeps, arrival window. -/
def termFields (d : TermParams) : List (Nat × Bool) :=
  [(1, (bool? d.enabled).isSome), (2, (function? d.function).isSome), (5, between 1 d.inputs.length 4)] ++
  offsetFields 6 (fun b => (source? b).isSome) d.inputs ++
  [(3, between 0 d.holdSweeps.toNat 63), (4, between 0 d.window.toNat 63)]

/-- The definition that the parameter bytes of SET_TERM carry. -/
def definitionOf (d : TermParams) : TermDefinition where
  enabled := (bool? d.enabled).getD false
  function := (function? d.function).getD .any
  inputs := d.inputs.filterMap source?
  holdSweeps := d.holdSweeps.toNat
  window := d.window.toNat

/-! ### Values to bytes (10 R179, R183, R184) -/

/-- A number of one byte. -/
def u8 (n : Nat) : Byte := BitVec.ofNat 8 n

/-- A number of two bytes. -/
def u16 (n : Nat) : List Byte := bytesOf16 (BitVec.ofNat 16 n)

/-- A signed number of two bytes. -/
def i16 (n : Int) : List Byte := bytesOf16 (BitVec.ofInt 16 n)

/-- A signed number of four bytes. -/
def i32 (n : Int) : List Byte := bytesOf32 (BitVec.ofInt 32 n)

/-- no, yes. -/
def yesNo (b : Bool) : Byte := if b then 0x01 else 0x00

/-- A bit of a presence or summary byte, set when the condition holds. -/
def flag (bit : Byte) (set : Bool) : Byte := if set then bit else 0

/-- A port (10 R179). -/
def portCode : Port → Byte
  | .a => 0x00
  | .b => 0x01
  | .c => 0x02

/-- A port, or FFh for none (10 R179). -/
def holderCode : Option Port → Byte
  | some p => portCode p
  | none => 0xFF

/-- The status codes (10 R184). -/
def StatusCode.code : StatusCode → Byte
  | .ok => 0x00
  | .deferred => 0x01
  | .pending => 0x02
  | .accepted => 0x03
  | .granted => 0x04
  | .noChange => 0x05
  | .noSession => 0x10
  | .notHolder => 0x11
  | .leaseBusy => 0x12
  | .busy => 0x13
  | .badValue => 0x14
  | .invalid => 0x15
  | .channelOff => 0x16
  | .tagInUse => 0x17
  | .portLimit => 0x18
  | .tableFull => 0x19
  | .unknownTag => 0x1A
  | .badSequence => 0x1B
  | .notDelivered => 0x1C
  | .noImage => 0x1D
  | .lowSupply => 0x1E
  | .generationLimit => 0x1F
  | .checkError => 0x20
  | .frameError => 0x21
  | .badLength => 0x22
  | .unknownRequest => 0x23
  | .noResponse => 0x24

/-- Channel states. -/
def ChannelState.code : ChannelState → Byte
  | .off => 0x00
  | .seeding => 0x01
  | .idle => 0x02
  | .pressPending => 0x03
  | .active => 0x04
  | .releasePending => 0x05
  | .fault => 0x06

/-- Term states. -/
def TermState.code : TermState → Byte
  | .off => 0x00
  | .false => 0x01
  | .arming => 0x02
  | .true => 0x03
  | .blocked => 0x04

/-- The run state and the start mode. -/
def runStateCode : RunState → Byte
  | .run => 0x00
  | .halted => 0x01

/-- The attention polarity. -/
def polarityCode : Polarity → Byte
  | .activeLow => 0x00
  | .activeHigh => 0x01

/-- The function of a term. -/
def functionCode : TermFunction → Byte
  | .any => 0x00
  | .all => 0x01
  | .one => 0x02
  | .none => 0x03

/-- The LOAD_STAGING source. -/
def StagingSource.code : StagingSource → Byte
  | .active => 0x00
  | .image => 0x01
  | .factory => 0x02

/-- Causes of CH_RELEASE and TM_FALSE. -/
def Cause.code : Cause → Byte
  | .normal => 0x01
  | .holdLimit => 0x02
  | .recal => 0x03
  | .config => 0x04
  | .unblock => 0x05

/-- LEASE outcomes. -/
def LeaseOutcome.code : LeaseOutcome → Byte
  | .preempted => 0x01
  | .expired => 0x02
  | .committed => 0x03

/-- STORE results. -/
def StoreResult.code : StoreResult → Byte
  | .ok => 0x01
  | .verifyFail => 0x02
  | .supplyFail => 0x03

/-- The reset cause. -/
def ResetCause.code : ResetCause → Byte
  | .power => 0x01
  | .line => 0x02
  | .restart => 0x03

/-- The configuration source. -/
def ConfigSource.code : ConfigSource → Byte
  | .slot0 => 0x00
  | .slot1 => 0x01
  | .factory => 0x02

/-- The store-supply condition. -/
def Supply.code : Supply → Byte
  | .good => 0x00
  | .low => 0x01

/-- A slot. -/
def SlotId.code : SlotId → Byte
  | .slot0 => 0x00
  | .slot1 => 0x01

/-- The lease state. -/
def Lease.code : Lease → Byte
  | .free => 0x00
  | .held _ _ _ _ => 0x01
  | .committing _ _ _ => 0x02

/-- The store state. -/
def storeStateCode : Option StoreRecord → Byte
  | none => 0x00
  | some r =>
    match r.phase with
    | .erasing => 0x01
    | .programming => 0x02
    | .verifying => 0x03

/-- The hold-limit timer state. -/
def HoldTimer.code : HoldTimer → Byte
  | .stopped => 0x00
  | .running _ => 0x01
  | .paused _ => 0x02

/-- A source code: a channel 00h..17h, a term 20h..2Fh (10 R180, R183). -/
def sourceCode : Source → Byte
  | .channel n => u8 n.val
  | .term k => u8 (0x20 + k.val)

/-- An item (10 R184). -/
def itemCode : Item → Byte
  | .channel n => u8 n.val
  | .term k => u8 (0x20 + k.val)
  | .scanList => 0x40
  | .hub => 0x41
  | .port .a => 0x50
  | .port .b => 0x51
  | .port .c => 0x52

/-- A constraint (10 R184). -/
def constraintCode : Constraint → Byte
  | .chHysteresis => 0x01
  | .chNoiseBand => 0x02
  | .chRange => 0x03
  | .listLength => 0x04
  | .listDuplicate => 0x05
  | .listEntry => 0x06
  | .termInputCount => 0x07
  | .termDuplicate => 0x08
  | .termOrder => 0x09
  | .termWindow => 0x0A

/-! ### The parts of a report as 06 section 6.1 tables them -/

/-- The kind code, before the resync mark is added (10 R184). -/
def Report.kindCode : Report → Byte
  | .chPress _ => 0x01
  | .chRelease _ _ _ => 0x02
  | .chRecal _ => 0x03
  | .chFault _ => 0x04
  | .chRecover _ => 0x05
  | .tmTrue _ => 0x11
  | .tmFalse _ _ _ => 0x12
  | .tmBlocked _ => 0x13
  | .resyncChannel _ _ => 0x20
  | .resyncTerm _ _ => 0x20
  | .epoch _ => 0x30
  | .lease _ => 0x31
  | .store _ => 0x32

/-- The source; `none` for a notice. -/
def Report.source : Report → Option Source
  | .chPress n | .chRelease n _ _ | .chRecal n | .chFault n | .chRecover n | .resyncChannel n _ =>
      some (.channel n)
  | .tmTrue k | .tmFalse k _ _ | .tmBlocked k | .resyncTerm k _ => some (.term k)
  | .epoch _ | .lease _ | .store _ => none

/-- The state code; 00h for a notice (10 R183). -/
def Report.stateCode : Report → Byte
  | .chPress _ => ChannelState.active.code
  | .chRelease _ st _ => st.code
  | .chRecal _ => ChannelState.idle.code
  | .chFault _ => ChannelState.fault.code
  | .chRecover _ => ChannelState.idle.code
  | .tmTrue _ => TermState.true.code
  | .tmFalse _ st _ => st.code
  | .tmBlocked _ => TermState.blocked.code
  | .resyncChannel _ st => st.code
  | .resyncTerm _ st => st.code
  | .epoch _ | .lease _ | .store _ => 0x00

/-- The detail value; 00h when absent (10 R183). -/
def Report.detailCode : Report → Byte
  | .chRelease _ _ cause | .tmFalse _ _ cause => cause.code
  | .epoch e => e
  | .lease outcome => outcome.code
  | .store result => result.code
  | .chPress _ | .chRecal _ | .chFault _ | .chRecover _ | .tmTrue _ | .tmBlocked _
  | .resyncChannel _ _ | .resyncTerm _ _ => 0x00

/-- The event record of an entry (10 R183). -/
def Entry.bytes (e : Entry) : List Byte :=
  bytesOf16 e.sequence ++
  [e.report.kindCode + flag 0x80 e.resync,
   (match e.report.source with
    | some src => sourceCode src
    | none => 0xFF),
   e.report.stateCode, e.report.detailCode] ++
  bytesOf16 e.stamp

/-! ### Items of a configuration (10 R182: the layout of the SET request that writes them) -/

/-- The 17 bytes of a channel item. -/
def channelBytes (n : ChannelId) (f : ChannelProfile) : List Byte :=
  [u8 n.val, yesNo f.enabled, u8 f.settleSteps, u8 f.driveCode, u8 f.resolution, yesNo f.quiet] ++
  u16 f.touch ++ [u8 f.hysteresis, u8 f.noiseBand] ++ u16 f.negativeBand ++
  [u8 f.driftLimit, u8 f.lowRunLimit, u8 f.pressDebounce, u8 f.releaseDebounce, u8 f.holdLimit]

/-- The bytes of a term item. -/
def termBytes (k : TermId) (d : TermDefinition) : List Byte :=
  [u8 k.val, yesNo d.enabled, functionCode d.function, u8 d.holdSweeps, u8 d.window, u8 d.inputs.length] ++
  d.inputs.map sourceCode

/-- The bytes of the scan list item. -/
def scanListBytes (l : List Nat) : List Byte := u8 l.length :: l.map u8

/-- The 4 bytes of the hub item. -/
def hubBytes (h : HubSettings) : List Byte :=
  u16 h.sweepPeriodMs ++ [runStateCode h.startMode, u8 h.leaseSteps]

/-- The 3 bytes of a port item. -/
def portBytes (p : Port) (f : PortProfile) : List Byte := [portCode p, u8 f.rank, polarityCode f.polarity]

/-- The content of an item of a configuration. -/
def itemBytes (cfg : Configuration) : Item → List Byte
  | .channel n => channelBytes n (cfg.channels.get n)
  | .term k => termBytes k (cfg.terms.get k)
  | .scanList => scanListBytes cfg.scanList
  | .hub => hubBytes cfg.hub
  | .port p => portBytes p (cfg.ports.get p)

/-! ### The response message (10 R181) -/

/-- The bytes of a response: length, status, echoed tag, payload, check byte. -/
def Response.bytes (r : Response) : List Byte :=
  let body := u8 (r.payload.length + 3) :: r.status.code :: r.tag :: r.payload
  body ++ [checkByte body]

/-- The NO_RESPONSE message that a port with no held response returns (10 R177). -/
def noResponse : Response where
  status := .noResponse
  tag := 0x00
  payload := []

/-- The bytes a read transaction of a port returns, one for each byte clocked: the held response or the
NO_RESPONSE message, then FFh (10 R177); FFh throughout while the port serves no read (10 R170). -/
def PortInterface.readByte (i : PortInterface) (k : Nat) : Byte :=
  match i.indication with
  | .read => ((i.held.getD noResponse).bytes).getD k 0xFF
  | .none | .write => 0xFF

end Sys2Proof.Machine
end

