-- ==== Sys2Proof/Machine/Validation.lean ====
section
/-! DEFINITION. The commit validation constraints (08 R146, 04 R57), the field ranges of a whole configuration, and the
validity of image slots (09 R155, R156). -/

namespace Sys2Proof.Machine

/-- The first of a list of checks that fails. -/
def firstFailing {α : Type} : List (α × Bool) → Option α
  | [] => none
  | (name, holds) :: rest => if holds then firstFailing rest else some name

/-- No entry twice. -/
def noRepeat {α : Type} [DecidableEq α] : List α → Bool
  | [] => true
  | x :: xs => !xs.contains x && noRepeat xs

/-- Constraints 1 to 3 of R146, for one channel, enabled or not. -/
def channelConstraints (f : ChannelProfile) : List (Constraint × Bool) :=
  [ (.chHysteresis, decide (f.hysteresis < f.touch)),
    (.chNoiseBand, decide (f.noiseBand + f.hysteresis + 1 ≤ f.touch)),
    (.chRange, decide (f.touch + f.hysteresis + 3 ≤ 2 ^ f.resolution)) ]

/-- Constraints 4 to 6 of R146, for the scan list. -/
def scanListConstraints (l : List Nat) : List (Constraint × Bool) :=
  [ (.listLength, between 1 l.length 24),
    (.listDuplicate, noRepeat l),
    (.listEntry, l.all fun n => decide (n < 24)) ]

/-- An input of term k that is a term of lower index, or a channel (04 R57). -/
def inputOrdered (k : TermId) : Source → Bool
  | .channel _ => true
  | .term j => decide (j.val < k.val)

/-- Constraints 7 to 10 of R146, for one term; a term that is not enabled is not checked (04 R57). -/
def termConstraints (k : TermId) (d : TermDefinition) : List (Constraint × Bool) :=
  if d.enabled then
    [ (.termInputCount, between 1 d.inputs.length 4),
      (.termDuplicate, noRepeat d.inputs),
      (.termOrder, d.inputs.all (inputOrdered k)),
      (.termWindow, decide (d.window = 0) || (decide (d.function = .all) && decide (2 ≤ d.inputs.length))) ]
  else []

/-- Every check of R146 in its order: channels 0..23, the scan list, terms 0..15. -/
def constraintChecks (cfg : Configuration) : List ((Item × Constraint) × Bool) :=
  (ChannelId.all.flatMap fun n =>
    (channelConstraints (cfg.channels.get n)).map fun c => ((Item.channel n, c.1), c.2)) ++
  (scanListConstraints cfg.scanList).map (fun c => ((Item.scanList, c.1), c.2)) ++
  (TermId.all.flatMap fun k =>
    (termConstraints k (cfg.terms.get k)).map fun c => ((Item.term k, c.1), c.2))

/-- The first item and constraint that fail (08 R146), if any. -/
def firstViolation (cfg : Configuration) : Option (Item × Constraint) := firstFailing (constraintChecks cfg)

/-- Every field of a channel profile within its range (01 1.1, 02 2.1, 03 3.1). -/
def profileInRange (f : ChannelProfile) : Bool :=
  between 2 f.settleSteps 255 && between 1 f.driveCode 63 && between 9 f.resolution 16 &&
  between 1 f.touch 4095 && between 0 f.hysteresis 255 && between 0 f.noiseBand 255 &&
  between 1 f.negativeBand 4095 && between 0 f.driftLimit 255 && between 1 f.lowRunLimit 255 &&
  between 1 f.pressDebounce 15 && between 1 f.releaseDebounce 15 && between 0 f.holdLimit 255

/-- Every field of a term definition within its range (04 4.1). -/
def termInRange (d : TermDefinition) : Bool :=
  between 1 d.inputs.length 4 && between 0 d.holdSweeps 63 && between 0 d.window 63

/-- Every field of the hub settings within its range (08 8.1). -/
def hubInRange (h : HubSettings) : Bool := between 5 h.sweepPeriodMs 500 && between 5 h.leaseSteps 100

/-- The rank within its range (08 8.1). -/
def portInRange (f : PortProfile) : Bool := between 0 f.rank 3

/-- Every field of a configuration within the range of its definition (09 R155). -/
def configInRange (cfg : Configuration) : Bool :=
  (ChannelId.all.all fun n => profileInRange (cfg.channels.get n)) &&
  between 1 cfg.scanList.length 24 && (cfg.scanList.all fun n => decide (n < 24)) &&
  (TermId.all.all fun k => termInRange (cfg.terms.get k)) &&
  hubInRange cfg.hub &&
  (Port.all.all fun p => portInRange (cfg.ports.get p))

/-- A configuration a slot may carry: in range and passing every constraint (09 R155). -/
def configValid (cfg : Configuration) : Bool := configInRange cfg && (firstViolation cfg).isNone

/-! ### Image slots -/

/-- The slot of an identity. -/
def ImageStore.slot (im : ImageStore) : SlotId → Slot
  | .slot0 => im.slot0
  | .slot1 => im.slot1

/-- Replace a slot. -/
def ImageStore.setSlot (im : ImageStore) (id : SlotId) (x : Slot) : ImageStore :=
  match id with
  | .slot0 => { im with slot0 := x }
  | .slot1 => { im with slot1 := x }

/-- The configuration of a slot whose content is valid: its check matches, its generation lies in
1..4 294 967 294 and its configuration is valid (09 R155). -/
def Slot.content (x : Slot) : Option Configuration :=
  match x.configuration with
  | none => none
  | some cfg =>
    if x.check = some (Config.crc16 x.generation cfg) ∧ 1 ≤ x.generation.toNat ∧
        x.generation.toNat ≤ 4294967294 ∧ configValid cfg = true
    then some cfg else none

/-- The target slot of the store in progress, which is invalid whatever it holds (09 R155). -/
def ImageStore.isTarget (im : ImageStore) (id : SlotId) : Bool :=
  match im.store with
  | some r => decide (r.target = id)
  | none => false

/-- The configuration of a valid slot; `none` for an invalid one (09 R155). -/
def ImageStore.validContent (im : ImageStore) (id : SlotId) : Option Configuration :=
  if im.isTarget id then none else (im.slot id).content

/-- The newest valid slot with its configuration (09 R156): the larger generation, slot 0 where both
are equal. -/
def ImageStore.newest (im : ImageStore) : Option (SlotId × Configuration) :=
  match im.validContent .slot0, im.validContent .slot1 with
  | none, none => none
  | some c0, none => some (.slot0, c0)
  | none, some c1 => some (.slot1, c1)
  | some c0, some c1 =>
    if im.slot0.generation.toNat < im.slot1.generation.toNat then some (.slot1, c1) else some (.slot0, c0)

/-- The newest valid generation (09 R156). -/
def ImageStore.newestGeneration (im : ImageStore) : Option (BitVec 32) :=
  im.newest.map fun x => (im.slot x.1).generation

/-- The target slot and generation a store takes (09 R163). -/
def ImageStore.nextTarget (im : ImageStore) : SlotId × BitVec 32 :=
  match im.newest with
  | none => (.slot0, 1)
  | some (.slot0, _) => (.slot1, im.slot0.generation + 1)
  | some (.slot1, _) => (.slot0, im.slot1.generation + 1)

end Sys2Proof.Machine
end

