-- ==== Sys2Proof/Machine/Ops.lean ====
section
/-! DEFINITION. The operations the blocks share: reading and replacing parts of the state, time, the taking of a
request (10 R175, R176), the offering of events (06 R91 to R93) and the arbiter (01 R18). -/

namespace Sys2Proof.Machine

/-! ### One update for each field of State (their lemmas: Laws/State.lean) -/

/-- Replace the field `pending`. -/
def State.setPending (s : State) (x : List Instr) : State := { s with pending := x }

/-- Replace the field `now`. -/
def State.setNow (s : State) (x : Nat) : State := { s with now := x }

/-- Replace the field `phase`. -/
def State.setPhase (s : State) (x : Phase) : State := { s with phase := x }

/-- Replace the field `unit`. -/
def State.setUnit (s : State) (x : Option Measurement) : State := { s with unit := x }

/-- Replace the field `sequencer`. -/
def State.setSequencer (s : State) (x : Sequencer) : State := { s with sequencer := x }

/-- Replace the field `trackers`. -/
def State.setTrackers (s : State) (x : Vector Tracker 24) : State := { s with trackers := x }

/-- Replace the field `terms`. -/
def State.setTerms (s : State) (x : Vector TermRecord 16) : State := { s with terms := x }

/-- Replace the field `delivery`. -/
def State.setDelivery (s : State) (x : PortMap Delivery) : State := { s with delivery := x }

/-- Replace the field `fresh`. -/
def State.setFresh (s : State) (x : List FreshEntry) : State := { s with fresh := x }

/-- Replace the field `lease`. -/
def State.setLease (s : State) (x : Lease) : State := { s with lease := x }

/-- Replace the field `restartDelay`. -/
def State.setRestartDelay (s : State) (x : Option Nat) : State := { s with restartDelay := x }

/-- Replace the field `active`. -/
def State.setActive (s : State) (x : Option Configuration) : State := { s with active := x }

/-- Replace the field `epoch`. -/
def State.setEpoch (s : State) (x : BitVec 8) : State := { s with epoch := x }

/-- Replace the field `images`. -/
def State.setImages (s : State) (x : ImageStore) : State := { s with images := x }

/-- Replace the field `supply`. -/
def State.setSupply (s : State) (x : Supply) : State := { s with supply := x }

/-- Replace the field `status`. -/
def State.setStatus (s : State) (x : Status) : State := { s with status := x }

/-- Replace the field `ports`. -/
def State.setPorts (s : State) (x : PortMap PortInterface) : State := { s with ports := x }

/-- Replace one tracker record. -/
def State.setTracker (s : State) (n : ChannelId) (t : Tracker) : State := s.setTrackers (setAt s.trackers n t)

/-- Replace one term record. -/
def State.setTerm (s : State) (k : TermId) (r : TermRecord) : State := s.setTerms (setAt s.terms k r)

/-- Replace what the delivery unit holds for one port. -/
def State.setDeliveryOf (s : State) (p : Port) (d : Delivery) : State := s.setDelivery (s.delivery.set p d)

/-- Replace one port interface. -/
def State.setPort (s : State) (p : Port) (i : PortInterface) : State := s.setPorts (s.ports.set p i)

/-- Replace the counters of the status block. -/
def State.setCounters (s : State) (c : Counters) : State := s.setStatus { s.status with counters := c }

/-! ### Reading the state -/

/-- The configuration in force. Every meaning that reads it is taken while the hub is RUNNING, when the
active configuration is present (09 R158). -/
def State.config (s : State) : Configuration := s.active.getD factoryConfiguration

/-- The profile of a channel in the active configuration. -/
def State.profile (s : State) (n : ChannelId) : ChannelProfile := s.config.channels.get n

/-- The stamp of an entry appended now: the low 16 bits of the current sweep number (06 R92). -/
def State.stamp (s : State) : BitVec 16 := s.sequencer.number.setWidth 16

/-- A commit is waiting while the lease is COMMITTING (01 R10). -/
def State.commitWaiting (s : State) : Bool :=
  match s.lease with
  | .committing _ _ _ => true
  | .free | .held _ _ _ _ => false

/-- A transaction is in progress on some port (01 R5). -/
def State.transactionInProgress (s : State) : Bool :=
  Port.all.any fun p => decide ((s.ports.get p).indication ≠ .none)

/-- A channel is active when its state is ACTIVE or RELEASE_PENDING (03 R38). -/
def ChannelState.isActive : ChannelState → Bool
  | .active | .releasePending => true
  | .off | .seeding | .idle | .pressPending | .fault => false

/-- The difference d of a record, absent while the baseline or last raw is (02 R22). -/
def Tracker.difference (t : Tracker) : Option Int :=
  match t.lastRaw, t.baseline with
  | some raw, some base => some ((raw : Int) - (base : Int))
  | _, _ => none

/-! ### Time -/

/-- The timebase reaches a moment, or stands where it is past it (log 2). -/
def State.advanceTo (s : State) (t : Nat) : State := s.setNow (max s.now t)

/-- The lease time of the active configuration (08 section 8.1). -/
def State.leaseTime (s : State) : Nat := milliseconds (100 * s.config.hub.leaseSteps)

/-- The sweep period of the active configuration (01 R9). -/
def State.sweepPeriod (s : State) : Nat := milliseconds s.config.hub.sweepPeriodMs

/-! ### Taking a request (10 R175, R176) -/

/-- The outcome of a request: its status and payload. -/
structure Reply where
  status : StatusCode
  payload : List Byte
deriving DecidableEq, Repr

/-- A response with no payload. -/
def Reply.plain (status : StatusCode) : Reply := ⟨status, []⟩

/-- BAD_VALUE with the offset of the failing field (10 R179). -/
def Reply.badValue (offset : Nat) : Reply := ⟨.badValue, [u8 offset]⟩

/-- BUSY on account of a waiting commit, with the holder or FFh (10 R181). -/
def Reply.busyCommitting (holder : Option Port) : Reply := ⟨.busy, [0x01, holderCode holder]⟩

/-- BUSY on account of a store in progress, with the holder, the requester (10 R181). -/
def Reply.busyStoring (holder : Port) : Reply := ⟨.busy, [0x02, portCode holder]⟩

/-- How a request stands at the lease gate (08 R139). -/
inductive LeaseGate where
  /-- not lease-gated. -/
  | open
  /-- lease-gated: BUSY from the holder in COMMITTING. -/
  | gated
  /-- lease-gated, and taken from the holder in COMMITTING too: READ_STAGING. -/
  | readable
deriving DecidableEq, Repr

/-- The gates a request passes (10 R175): whether it needs an open session, and its lease gate. -/
structure Gates where
  session : Bool
  lease : LeaseGate
deriving DecidableEq, Repr

/-- A request that any open session may send. -/
def Gates.anySession : Gates := ⟨true, .open⟩

/-- A request that a closed port may send too: OPEN, IDENTIFY, READ_STATUS (05 R75). -/
def Gates.anyPort : Gates := ⟨false, .open⟩

/-- A request of the lease holder (08 R139). -/
def Gates.holder : Gates := ⟨true, .gated⟩

/-- READ_STAGING (08 R139). -/
def Gates.holderReading : Gates := ⟨true, .readable⟩

/-- What the lease gate answers a port, if it refuses (08 R139). -/
def State.leaseRefusal (s : State) (p : Port) : LeaseGate → Option Reply
  | .open => none
  | .gated =>
    match s.lease with
    | .free => some (.plain .notHolder)
    | .held h _ _ _ => if h = p then none else some (.plain .notHolder)
    | .committing h _ _ => if h = some p then some (.busyCommitting h) else some (.plain .notHolder)
  | .readable =>
    match s.lease with
    | .free => some (.plain .notHolder)
    | .held h _ _ _ => if h = p then none else some (.plain .notHolder)
    | .committing h _ _ => if h = some p then none else some (.plain .notHolder)

/-- What the session and lease gates answer, if one refuses (10 R175). -/
def State.gateRefusal (s : State) (p : Port) (g : Gates) : Option Reply :=
  if g.session && (s.delivery.get p).session.isNone then some (.plain .noSession)
  else s.leaseRefusal p g.lease

/-- A request taken from the holder's port in HELD restarts the lease timer, whatever its response (08 R131). -/
def State.restartLeaseTimer (s : State) (p : Port) : State :=
  match s.lease with
  | .held h staging dirty _ =>
    if h = p then s.setLease (.held h staging dirty (s.now + s.leaseTime)) else s
  | .free | .committing _ _ _ => s

/-- The response replaces the port's held response whole (10 R176). -/
def State.hold (s : State) (p : Port) (r : Response) : State :=
  s.setPort p { s.ports.get p with held := some r }

/-- The answer to a request: its reply, with the message tag echoed. -/
def State.answer (s : State) (p : Port) (tag : Byte) (r : Reply) : State := s.hold p ⟨r.status, tag, r.payload⟩

/-- A request taken at a port (10 R175, R176): its lease timer is restarted, the gates are passed in order,
and its owning block answers. While the port does not acknowledge its address, no request is taken (09 R159). -/
def State.request (s : State) (p : Port) (tag : Byte) (g : Gates) (block : State → State × Reply) : Result State :=
  match s.phase with
  | .inReset | .loading _ => .next s
  | .running =>
    let s1 := s.restartLeaseTimer p
    match s1.gateRefusal p g with
    | some r => .next (s1.answer p tag r)
    | none => .next ((block s1).1.answer p tag (block s1).2)

/-- The field-range gate before a block (10 R175): BAD_VALUE names the first field that fails. -/
def rangeGate (fields : List (Nat × Bool)) (block : State → State × Reply) (s : State) : State × Reply :=
  match firstBad fields with
  | some offset => (s, .badValue offset)
  | none => block s

/-- An event of the hub, taken while it runs (09 R159: no measurement, tick or timer runs before the load
completes). -/
def State.whileRunning (s : State) (f : State → State) : Result State :=
  match s.phase with
  | .inReset | .loading _ => .next s
  | .running => .next (f s)

/-! ### Sequence numbers, appending and folding (06 R90 to R93) -/

/-- The sequence number after another: 1..65535, from 65535 to 1 (06 R90). -/
def nextSequence (n : BitVec 16) : BitVec 16 := if n = 0xFFFF then 1 else n + 1

/-- The number of entries a queue holds at most (06 R89). -/
def queueCapacity : Nat := 32

/-- The lapsed set is empty (06 R94). -/
def Lapsed.isEmpty (l : Lapsed) : Bool := decide (l = .empty)

/-- A member of the lapsed set (06 section 6.4). -/
inductive Member where
  | epoch
  | lease
  | store
  | channel (n : ChannelId)
  | term (k : TermId)
deriving DecidableEq, Repr

/-- The mark of bit n set in a mask. -/
def setBit {w : Nat} (m : BitVec w) (n : Nat) : BitVec w := m ||| (1#w <<< n)

/-- The mark of bit n cleared in a mask. -/
def clearBit {w : Nat} (m : BitVec w) (n : Nat) : BitVec w := m &&& ~~~(1#w <<< n)

/-- A folded report's member joins the set; the LEASE and STORE slots take its value (06 R93). -/
def Lapsed.join (l : Lapsed) (r : Report) : Lapsed :=
  match r with
  | .chPress n | .chRelease n _ _ | .chRecal n | .chFault n | .chRecover n | .resyncChannel n _ =>
      { l with channels := setBit l.channels n.val }
  | .tmTrue k | .tmFalse k _ _ | .tmBlocked k | .resyncTerm k _ => { l with terms := setBit l.terms k.val }
  | .epoch _ => { l with epoch := true }
  | .lease outcome => { l with lease := some outcome }
  | .store result => { l with store := some result }

/-- An append to the port's queue (06 R90, R92): the next sequence number, UNREAD, and the line follows. -/
def Delivery.append (d : Delivery) (now : Nat) (stamp : BitVec 16) (resync : Bool) (r : Report) : Delivery :=
  Delivery.lineAfterAppend
    { d with
      queue := d.queue ++ [{ sequence := d.nextSeq, report := r, resync := resync, stamp := stamp, read := false }]
      nextSeq := nextSequence d.nextSeq
      appended := true }
    now

/-- An offered event is appended when the lapsed set is empty and the queue has room (06 R91). -/
def Delivery.appendable (d : Delivery) : Bool := d.lapsed.isEmpty && decide (d.queue.length < queueCapacity)

/-- A fold: the member joins the lapsed set and nothing else of the port changes (06 R93). -/
def Delivery.fold (d : Delivery) (r : Report) : Delivery := { d with lapsed := d.lapsed.join r }

/-- One more lapse of a port (06 R110). -/
def State.countLapse (s : State) (p : Port) : State :=
  let c := s.status.counters
  s.setCounters { c with lapses := c.lapses.set p (saturatingIncrement (c.lapses.get p)) }

/-- An event is offered to a port: nothing on a CLOSED port, else appended or folded there (06 R91). -/
def State.offerTo (s : State) (p : Port) (r : Report) : State :=
  let d := s.delivery.get p
  match d.session with
  | none => s
  | some _ =>
    if d.appendable then s.setDeliveryOf p (d.append s.now s.stamp false r)
    else (s.setDeliveryOf p (d.fold r)).countLapse p

/-- A session subscribes to a channel or term event by its class and its source (05 R78); a notice is not
a matter of masks (05 R79). -/
def Session.subscribes (se : Session) : Report → Bool
  | .chPress n | .chRelease n _ _ => se.transitions && se.channelMask.getLsbD n.val
  | .chRecal n | .chFault n | .chRecover n => se.maintenance && se.channelMask.getLsbD n.val
  | .tmTrue k | .tmFalse k _ _ | .tmBlocked k => se.transitions && se.termMask.getLsbD k.val
  | .resyncChannel _ _ | .resyncTerm _ _ => false
  | .epoch _ | .lease _ | .store _ => true

/-- An event is offered to one port if its session is open and subscribes to it (05 R78). -/
def State.offerIfSubscribed (s : State) (p : Port) (r : Report) : State :=
  match (s.delivery.get p).session with
  | none => s
  | some se => if se.subscribes r then s.offerTo p r else s

/-- A channel event, a term event or the EPOCH notice is offered to every open session it concerns, in
port order (05 R78, R79, 06 R91). -/
def State.offerAll (s : State) (r : Report) : State :=
  Port.all.foldl (fun s p => s.offerIfSubscribed p r) s

/-! ### The measurement unit and its arbiter (01 R1, R2, R18) -/

/-- The duration of a measurement (01 R1): settle steps × 2 µs plus 2^resolution × 0.25 µs. -/
def measurementTicks (f : ChannelProfile) : Nat := microseconds (2 * f.settleSteps) + 2 ^ f.resolution

/-- A measurement begins now (01 R2, R5, R6). -/
def State.beginMeasurement (s : State) (kind : ClaimKind) (n : ChannelId) (retry : Retry) : State :=
  s.setUnit (some
    { kind := kind
      channel := n
      retry := retry
      disturbed := s.transactionInProgress
      endTime := s.now + measurementTicks (s.profile n) })

/-- A WAITING entry becomes MEASURING when it is of the channel of the claim that begins (07 R117). -/
def FreshEntry.joinClaim (n : ChannelId) (e : FreshEntry) : FreshEntry :=
  if e.channel = n ∧ e.state = .waiting then { e with state := .measuring } else e

/-- The oldest WAITING entry (01 R18). -/
def State.oldestWaiting (s : State) : Option FreshEntry := s.fresh.find? fun e => decide (e.state = .waiting)

/-- A claim of kind SWEEP begins on the sweep's position (01 R2, R18). -/
def State.beginSweepClaim (s : State) (n : ChannelId) : State :=
  s.beginMeasurement (.sweep s.sequencer.number) n .first

/-- A claim of kind FRESH begins on a channel, and its WAITING entries join it (01 R18, 07 R117). -/
def State.beginFreshClaim (s : State) (n : ChannelId) : State :=
  (s.setFresh (s.fresh.map (·.joinClaim n))).beginMeasurement .fresh n .first

/-- The arbiter is consulted (01 R18). A unit that is MEASURING is not asked; a commit that waits with no
sweep in progress starts nothing, and its commit point is the command COMMIT_POINT (log 7). -/
def State.consult (s : State) : State :=
  match s.unit with
  | some _ => s
  | none =>
    match s.commitWaiting, s.sequencer.position with
    | true, none => s
    | true, some n => s.beginSweepClaim n
    | false, position =>
      match s.oldestWaiting, position with
      | some e, _ => s.beginFreshClaim e.channel
      | none, some n => s.beginSweepClaim n
      | none, none => s

/-- The unit becomes IDLE at the end of a claim and the arbiter is consulted (01 R3, R18). -/
def State.endClaim (s : State) : State := (s.setUnit none).consult

end Sys2Proof.Machine
end

