-- ==== Sys2Proof/Machine/EventQueue.lean ====
section
/-! DEFINITION. Reading and acknowledging entries, and the drain of the lapsed set (06). -/

namespace Sys2Proof.Machine

/-- A queue entry becomes READ (06 R99). -/
def Entry.markRead (e : Entry) : Entry := { e with read := true }

/-- How many entries lie before the first one a READ_EVENTS takes: the READ ones in mode NEXT (06 R97),
none in mode FROM_OLDEST (06 R98). -/
def readStart (mode : ReadMode) (queue : List Entry) : Nat :=
  match mode with
  | .next => (queue.takeWhile fun e => e.read).length
  | .fromOldest => 0

/-- The entries a READ_EVENTS takes, from older to newer (06 R97, R98). -/
def Delivery.taken (d : Delivery) (mode : ReadMode) (count : Nat) : List Entry :=
  (d.queue.drop (readStart mode d.queue)).take count

/-- The port after a READ_EVENTS taken now: the entries taken are READ, and the line follows (06 R99, R108). -/
def Delivery.readOut (d : Delivery) (now : Nat) (mode : ReadMode) (count : Nat) : Delivery :=
  let start := readStart mode d.queue
  Delivery.lineAfterRead
    { d with
      queue := d.queue.take start ++ (d.taken mode count).map Entry.markRead ++ d.queue.drop (start + count) }
    now

/-- The summary byte of a READ_EVENTS response (10 R182): entries remaining, with 80h added when the
lapsed indication is set (06 R101). -/
def Delivery.summary (d : Delivery) : Byte := u8 d.unread + flag 0x80 (!d.lapsed.isEmpty)

/-- READ_EVENTS (06 R96 to R101). -/
def execReadEvents (p : Port) (tag : Byte) (count mode : Byte) (s : State) : Result State :=
  s.request p tag .anySession <|
    rangeGate [(0, between 1 count.toNat 8), (1, (readMode? mode).isSome)] fun s =>
      let m := (readMode? mode).getD .next
      let d := s.delivery.get p
      let d' := d.readOut s.now m count.toNat
      (s.setDeliveryOf p d', ⟨.ok, d'.summary :: (d.taken m count.toNat).flatMap Entry.bytes⟩)

/-- The members of the lapsed set in the fixed drain order (06 R104). -/
def drainOrder : List Member :=
  [.epoch, .lease, .store] ++ ChannelId.all.map .channel ++ TermId.all.map .term

/-- What a drain appends for a member that is in the set (06 R105). -/
def State.drainReport (s : State) (l : Lapsed) : Member → Option Report
  | .epoch => if l.epoch then some (.epoch s.epoch) else none
  | .lease => l.lease.map .lease
  | .store => l.store.map .store
  | .channel n => if l.channels.getLsbD n.val then some (.resyncChannel n (s.trackers.get n).state) else none
  | .term k => if l.terms.getLsbD k.val then some (.resyncTerm k (s.terms.get k).state) else none

/-- A member leaves the lapsed set (06 R104). -/
def Lapsed.remove (l : Lapsed) : Member → Lapsed
  | .epoch => { l with epoch := false }
  | .lease => { l with lease := none }
  | .store => { l with store := none }
  | .channel n => { l with channels := clearBit l.channels n.val }
  | .term k => { l with terms := clearBit l.terms k.val }

/-- One member of the drain: appended with the resync mark, and removed from the set, while the queue has
room (06 R104, R105). -/
def State.drainMember (s : State) (d : Delivery) (m : Member) : Delivery :=
  if d.queue.length < queueCapacity then
    match s.drainReport d.lapsed m with
    | none => d
    | some r => ({ d with lapsed := d.lapsed.remove m } : Delivery).append s.now s.stamp true r
  else d

/-- The drain of a port's lapsed set (06 R104). -/
def State.drain (s : State) (d : Delivery) : Delivery := drainOrder.foldl s.drainMember d

/-- How many entries of a queue an acknowledgement of a sequence removes: the places from the oldest to it
(06 R103). -/
def ackCount (sequence : BitVec 16) (queue : List Entry) : Nat :=
  (queue.takeWhile fun e => decide (e.sequence ≠ sequence)).length + 1

/-- The port after an accepted acknowledgement's removal, before its drain (06 R103). -/
def Delivery.removeUpTo (d : Delivery) (sequence : BitVec 16) : Delivery :=
  { d with queue := d.queue.drop (ackCount sequence d.queue) }

/-- An accepted acknowledgement, with its three response fields (06 R103, R104, R106). -/
def State.acknowledge (s : State) (p : Port) (sequence : BitVec 16) : State × Reply :=
  let d := s.delivery.get p
  let kept := d.removeUpTo sequence
  let d' := s.drain kept
  (s.setDeliveryOf p d',
    ⟨.ok, [u8 (ackCount sequence d.queue), u8 (d'.queue.length - kept.queue.length), yesNo (!d'.lapsed.isEmpty)]⟩)

/-- ACK_EVENTS (06 R102 to R106). -/
def execAckEvents (p : Port) (tag : Byte) (sequence : BitVec 16) (s : State) : Result State :=
  s.request p tag .anySession fun s =>
    match (s.delivery.get p).queue.find? fun e => decide (e.sequence = sequence) with
    | none => (s, .plain .badSequence)
    | some e => if e.read then s.acknowledge p sequence else (s, .plain .notDelivered)

end Sys2Proof.Machine
end

