-- ==== Sys2Proof/Machine/FreshSamples.lean ====
section
/-! DEFINITION. The fresh-sample table: SAMPLE, FETCH, CANCEL, completion and the discard timer (07). -/

namespace Sys2Proof.Machine

/-- A port's entry that holds a tag (07 section 7.1). -/
def FreshEntry.named (p : Port) (tag : Byte) (e : FreshEntry) : Bool := decide (e.owner = p) && decide (e.tag = tag)

/-- The entry of a port, not FREE, that holds a tag. -/
def State.sampleEntry (s : State) (p : Port) (tag : Byte) : Option FreshEntry := s.fresh.find? (·.named p tag)

/-- A port's entry with a tag becomes FREE (07 R121, R123, R125). -/
def State.freeSample (s : State) (p : Port) (tag : Byte) : State :=
  s.setFresh (s.fresh.filter fun e => !e.named p tag)

/-- How many entries, not FREE, a port holds (07 R114). -/
def State.samplesOf (s : State) (p : Port) : Nat := (s.fresh.filter fun e => decide (e.owner = p)).length

/-- Which of the four checks of 07 R115 refuses a SAMPLE, if any. -/
def State.sampleRefusal (s : State) (p : Port) (n : ChannelId) (sampleTag : Byte) : Option StatusCode :=
  if (s.trackers.get n).state = .off then some .channelOff
  else if (s.sampleEntry p sampleTag).isSome then some .tagInUse
  else if 2 ≤ s.samplesOf p then some .portLimit
  else if 6 ≤ s.fresh.length then some .tableFull
  else none

/-- SAMPLE (07 R115, R116). -/
def execSample (p : Port) (tag : Byte) (channel sampleTag : Byte) (s : State) : Result State :=
  s.request p tag .anySession fun s =>
    match channel? channel.toNat with
    | none => (s, .badValue 0)
    | some n =>
      if sampleTag = 0 then (s, .badValue 1)
      else
        match s.sampleRefusal p n sampleTag with
        | some status => (s, .plain status)
        | none =>
          let e : FreshEntry := { owner := p, tag := sampleTag, channel := n, state := .waiting }
          ((s.setFresh (s.fresh ++ [e])).consult, ⟨.deferred, [channel, sampleTag]⟩)

/-- The sample status (10 R184). -/
def SampleResult.statusCode : SampleResult → Byte
  | .ok _ _ _ => 0x01
  | .disturbed => 0x02
  | .channelOff => 0x03
  | .outOfRange _ => 0x04

/-- The payload of a FETCH answered OK (10 R182): 12 bytes. The difference is the raw count minus the
baseline, absent with it (07 R119). -/
def fetchBytes (n : ChannelId) (r : SampleResult) : List Byte :=
  [u8 n.val, r.statusCode] ++
  match r with
  | .ok raw (some base) state =>
    [0x01 + 0x02 + 0x04 + 0x08] ++ u16 raw ++ u16 base ++ i32 ((raw : Int) - base) ++ [state.code]
  | .ok raw none state => [0x01 + 0x08] ++ u16 raw ++ u16 0 ++ i32 0 ++ [state.code]
  | .outOfRange raw => [0x01] ++ u16 raw ++ u16 0 ++ i32 0 ++ [0x00]
  | .disturbed | .channelOff => [0x00] ++ u16 0 ++ u16 0 ++ i32 0 ++ [0x00]

/-- FETCH (07 R121). -/
def execFetch (p : Port) (tag : Byte) (sampleTag : Byte) (s : State) : Result State :=
  s.request p tag .anySession fun s =>
    if sampleTag = 0 then (s, .badValue 0)
    else
      match s.sampleEntry p sampleTag with
      | none => (s, .plain .unknownTag)
      | some e =>
        match e.state with
        | .waiting => (s, ⟨.pending, [0x01]⟩)
        | .measuring => (s, ⟨.pending, [0x02]⟩)
        | .ready r _ => (s.freeSample p sampleTag, ⟨.ok, fetchBytes e.channel r⟩)

/-- The state of an entry that CANCEL reports (10 R182). -/
def FreshState.code : FreshState → Byte
  | .waiting => 0x01
  | .measuring => 0x02
  | .ready _ _ => 0x03

/-- CANCEL (07 R123). -/
def execCancel (p : Port) (tag : Byte) (sampleTag : Byte) (s : State) : Result State :=
  s.request p tag .anySession fun s =>
    if sampleTag = 0 then (s, .badValue 0)
    else
      match s.sampleEntry p sampleTag with
      | none => (s, .plain .unknownTag)
      | some e => (s.freeSample p sampleTag, ⟨.ok, [e.state.code]⟩)

/-- The time a READY entry is kept (07 R125). -/
def discardTicks : Nat := milliseconds 100

/-- A MEASURING entry takes the outcome of the claim on its channel (07 R118). -/
def FreshEntry.complete (n : ChannelId) (r : SampleResult) (discardAt : Nat) (e : FreshEntry) : FreshEntry :=
  if e.channel = n ∧ e.state = .measuring then { e with state := .ready r discardAt } else e

/-- The table takes the outcome of a claim of kind FRESH (07 R118). -/
def State.completeFresh (s : State) (n : ChannelId) (r : SampleResult) : State :=
  s.setFresh (s.fresh.map (·.complete n r (s.now + discardTicks)))

/-- The outcome that a raw count gives a claim of kind FRESH, with the baseline and state the tracker holds
(07 R118, R119). -/
def State.freshOutcome (s : State) (n : ChannelId) (raw : Nat) (inRange : Bool) : SampleResult :=
  if inRange then .ok raw (s.trackers.get n).baseline (s.trackers.get n).state else .outOfRange raw

/-- A WAITING entry of a channel that a commit point left OFF (07 R127). -/
def FreshEntry.completeOff (isOff : ChannelId → Bool) (discardAt : Nat) (e : FreshEntry) : FreshEntry :=
  if e.state = .waiting ∧ isOff e.channel = true then { e with state := .ready .channelOff discardAt } else e

/-- The WAITING entries of channels now OFF completed with CHANNEL_OFF (07 R127; 08 R150, step 6). -/
def State.completeOffSamples (s : State) : State :=
  s.setFresh (s.fresh.map
    (·.completeOff (fun n => decide ((s.trackers.get n).state = .off)) (s.now + discardTicks)))

/-- DISCARD_TIMER_EXPIRY (07 R125): a READY entry's timer reaches 0; an entry in another state, or none, has
no timer that runs (07 R122, R124). -/
def execDiscardTimerExpiry (p : Port) (sampleTag : Byte) (s : State) : Result State :=
  s.whileRunning fun s =>
    match s.sampleEntry p sampleTag with
    | none => s
    | some e =>
      match e.state with
      | .waiting | .measuring => s
      | .ready _ discardAt =>
        let c := s.status.counters
        ((s.advanceTo discardAt).freeSample p sampleTag).setCounters
          { c with freshDiscards := saturatingIncrement c.freshDiscards }

end Sys2Proof.Machine
end

