-- ==== Sys2Proof/Machine/Tracking.lean ====
section
/-! DEFINITION. The channel trackers: taking a sweep count (02 R23 to R34), the state step (03 R39 to R42), the hold-limit
timer (03 R44 to R46), and what a commit point does to a record (02 R36, 03 R48 to R51). -/

namespace Sys2Proof.Machine

/-- What a tracker reads of the hub when it takes an event: the time, the run state and the current
sweep number (03 R43, R44). -/
structure Moment where
  now : Nat
  run : RunState
  number : BitVec 32
deriving DecidableEq, Repr

/-- The present moment. -/
def State.moment (s : State) : Moment := ⟨s.now, s.sequencer.run, s.sequencer.number⟩

/-- The hold-limit timer started afresh with a hold limit greater than 0, STOPPED with 0 (03 R44, R49). -/
def startHoldTimer (m : Moment) (holdLimit : Nat) : HoldTimer :=
  if holdLimit = 0 then .stopped
  else
    match m.run with
    | .run => .running (m.now + milliseconds (100 * holdLimit))
    | .halted => .paused (milliseconds (100 * holdLimit))

/-- The baseline set to a raw count: seeding, recalibration and recovery alike (02 R24, R27, R34). The
state becomes IDLE and the debounce count is removed. -/
def Tracker.rebase (t : Tracker) (raw : Nat) : Tracker :=
  { t with
    state := .idle
    baseline := some raw
    lastRaw := some raw
    bucket := 0
    lowRun := 0
    debounce := none }

/-- Entry into ACTIVE from IDLE or PRESS_PENDING (03 R40, R43, R44). -/
def Tracker.press (t : Tracker) (f : ChannelProfile) (m : Moment) : Tracker :=
  { t with
    state := .active
    debounce := none
    activeSince := some m.number
    holdTimer := startHoldTimer m f.holdLimit }

/-- Leaving the active pair for IDLE by the release debounce (03 R41). -/
def Tracker.release (t : Tracker) : Tracker :=
  { t with state := .idle, debounce := none, holdTimer := .stopped }

/-- The state step of a measurement's difference (03 R39 to R42), with the report it makes. -/
def Tracker.stateStep (t : Tracker) (n : ChannelId) (f : ChannelProfile) (m : Moment) (d : Int) :
    Tracker × Option Report :=
  let pressing : Bool := decide ((f.touch : Int) + f.hysteresis ≤ d)
  let releasing : Bool := decide (d ≤ (f.touch : Int) - f.hysteresis)
  let count := t.debounce.getD 0
  match t.state with
  | .idle =>
    if pressing then
      if f.pressDebounce ≤ 1 then (t.press f m, some (.chPress n))
      else ({ t with state := .pressPending, debounce := some 1 }, none)
    else (t, none)
  | .pressPending =>
    if pressing then
      if f.pressDebounce ≤ count + 1 then (t.press f m, some (.chPress n))
      else ({ t with debounce := some (count + 1) }, none)
    else ({ t with state := .idle, debounce := none }, none)
  | .active =>
    if releasing then
      if f.releaseDebounce ≤ 1 then (t.release, some (.chRelease n .idle .normal))
      else ({ t with state := .releasePending, debounce := some 1 }, none)
    else (t, none)
  | .releasePending =>
    if releasing then
      if f.releaseDebounce ≤ count + 1 then (t.release, some (.chRelease n .idle .normal))
      else ({ t with debounce := some (count + 1) }, none)
    else ({ t with state := .active, debounce := none }, none)
  | .off | .seeding | .fault => (t, none)

/-- The drift step (02 R28, R29): in IDLE, with L above 0 and the difference in −M..N, the bucket takes the
difference and moves the baseline by one count when it reaches L or −L. -/
def Tracker.driftStep (t : Tracker) (f : ChannelProfile) (d : Int) : Tracker :=
  if t.state = .idle ∧ 0 < f.driftLimit ∧ -(f.negativeBand : Int) ≤ d ∧ d ≤ (f.noiseBand : Int) then
    if (f.driftLimit : Int) ≤ t.bucket + d then
      { t with baseline := t.baseline.map (· + 1), bucket := 0 }
    else if t.bucket + d ≤ -(f.driftLimit : Int) then
      { t with baseline := t.baseline.map (· - 1), bucket := 0 }
    else { t with bucket := t.bucket + d }
  else t

/-- A recalibration (02 R27): a channel that was active makes CH_RELEASE of cause RECAL and its hold-limit
timer stops; one that was not makes CH_RECAL. -/
def Tracker.recalibrate (t : Tracker) (n : ChannelId) (raw : Nat) : Tracker × Option Report :=
  if t.state.isActive then ({ t.rebase raw with holdTimer := .stopped }, some (.chRelease n .idle .recal))
  else (t.rebase raw, some (.chRecal n))

/-- Row 5 of 02 R23, over a baseline: the low-run step (02 R26), then the drift step, then the state step,
each with the measurement's own difference (02 R22). -/
def Tracker.judge (t : Tracker) (n : ChannelId) (f : ChannelProfile) (m : Moment) (raw base : Nat) :
    Tracker × Option Report :=
  let d : Int := (raw : Int) - base
  if d < -(f.negativeBand : Int) then
    if f.lowRunLimit ≤ t.lowRun + 1 then t.recalibrate n raw
    else (({ t with lastRaw := some raw, lowRun := t.lowRun + 1 } : Tracker).driftStep f d).stateStep n f m d
  else (({ t with lastRaw := some raw, lowRun := 0 } : Tracker).driftStep f d).stateStep n f m d

/-- An in-range sweep count (02 R23, rows 3 to 5). A record of row 5 without a baseline, which no run
reaches, is seeded; no count reaches a tracker in OFF (log 19). -/
def Tracker.takeInRange (t : Tracker) (n : ChannelId) (f : ChannelProfile) (m : Moment) (raw : Nat) :
    Tracker × Option Report :=
  let t0 := { t with outOfRangeRun := 0 }
  match t.state with
  | .off => (t, none)
  | .fault => ({ t0.rebase raw with reseed := false }, some (.chRecover n))
  | .seeding => ({ t0.rebase raw with reseed := false }, none)
  | .idle | .pressPending | .active | .releasePending =>
    if t.reseed then ({ t0.rebase raw with reseed := false }, none)
    else
      match t.baseline with
      | none => (t0.rebase raw, none)
      | some base => t0.judge n f m raw base

/-- Entry into FAULT (02 R32). -/
def Tracker.enterFault (t : Tracker) : Tracker :=
  { t with state := .fault, outOfRangeRun := 0, debounce := none, holdTimer := .stopped }

/-- An out-of-range sweep count (02 R23, rows 1 and 2; R31 to R33). -/
def Tracker.takeOutOfRange (t : Tracker) (n : ChannelId) : Tracker × Option Report :=
  match t.state with
  | .off | .fault => (t, none)
  | .seeding | .idle | .pressPending | .active | .releasePending =>
    if 8 ≤ t.outOfRangeRun + 1 then (t.enterFault, some (.chFault n))
    else ({ t with outOfRangeRun := t.outOfRangeRun + 1 }, none)

/-- A tracker's new record and the event it makes: the record stands before the event is offered (02 R23). -/
def State.trackerMoves (s : State) (n : ChannelId) (x : Tracker × Option Report) : State :=
  match x.2 with
  | none => s.setTracker n x.1
  | some r => (s.setTracker n x.1).offerAll r

/-- One more out-of-range measurement (02 R31, R33): every such count that reaches a tracker not OFF. -/
def State.countOutOfRange (s : State) (n : ChannelId) : State :=
  match (s.trackers.get n).state with
  | .off => s
  | .seeding | .idle | .pressPending | .active | .releasePending | .fault =>
    let c := s.status.counters
    s.setCounters { c with outOfRange := saturatingIncrement c.outOfRange }

/-- A sweep count reaches the tracker of its channel (02 R23). -/
def State.trackerTakes (s : State) (n : ChannelId) (raw : Nat) (inRange : Bool) : State :=
  if inRange then s.trackerMoves n ((s.trackers.get n).takeInRange n (s.profile n) s.moment raw)
  else (s.countOutOfRange n).trackerMoves n ((s.trackers.get n).takeOutOfRange n)

/-! ### The hold-limit timer across HALT, RESUME and its expiry -/

/-- HALT: a RUNNING timer becomes PAUSED with the remaining time it had; one that is just due is held as
1 ms (03 R45, R47; log 12). -/
def HoldTimer.pause (now : Nat) : HoldTimer → HoldTimer
  | .running expiry => .paused (if expiry ≤ now then milliseconds 1 else expiry - now)
  | .stopped => .stopped
  | .paused remaining => .paused remaining

/-- RESUME: a PAUSED timer becomes RUNNING with the remaining time it kept (03 R45). -/
def HoldTimer.resume (now : Nat) : HoldTimer → HoldTimer
  | .paused remaining => .running (now + remaining)
  | .stopped => .stopped
  | .running expiry => .running expiry

/-- The remaining time in ms, present while RUNNING or PAUSED (03 section 3.4; log 11). -/
def HoldTimer.remaining (now : Nat) : HoldTimer → Option Nat
  | .stopped => none
  | .running expiry => some (remainingMs (expiry - now))
  | .paused remaining => some (remainingMs remaining)

/-- Every hold-limit timer changed alike (03 R45). -/
def State.mapHoldTimers (s : State) (f : HoldTimer → HoldTimer) : State :=
  s.setTrackers (Vector.ofFn fun n =>
    { s.trackers.get n with holdTimer := f (s.trackers.get n).holdTimer })

/-- The record of a channel whose hold limit has expired (03 R46). -/
def Tracker.expireHold (t : Tracker) : Tracker :=
  { t with state := .idle, debounce := none, reseed := true, holdTimer := .stopped }

/-- HOLD_LIMIT_EXPIRY (03 R46): a RUNNING timer reaches 0; a timer that is not RUNNING does not expire (03 R47). -/
def execHoldLimitExpiry (n : ChannelId) (s : State) : Result State :=
  s.whileRunning fun s =>
    match (s.trackers.get n).holdTimer with
    | .running expiry =>
      (s.advanceTo expiry).trackerMoves n
        ((s.trackers.get n).expireHold, some (.chRelease n .idle .holdLimit))
    | .stopped | .paused _ => s

/-! ### The commit point (08 R150, step 4) -/

/-- The measurement-affecting fields are equal (01 section 1.1). -/
def sameMeasurement (old new : ChannelProfile) : Bool :=
  decide (old.enabled = new.enabled) && decide (old.settleSteps = new.settleSteps) &&
  decide (old.driveCode = new.driveCode) && decide (old.resolution = new.resolution) &&
  decide (old.quiet = new.quiet)

/-- The state a channel takes after a reset or a re-initialisation (02 R37, 03 R50). -/
def startState (f : ChannelProfile) : ChannelState := if f.enabled then .seeding else .off

/-- Re-initialisation (03 R50, R51): a channel that was active makes CH_RELEASE of cause CONFIG. -/
def Tracker.reinitialise (t : Tracker) (n : ChannelId) (new : ChannelProfile) : Tracker × Option Report :=
  (blankTracker (startState new),
    if t.state.isActive then some (.chRelease n (startState new) .config) else none)

/-- Threshold fields alone changed (02 R36, 03 R48, R49): the drift bucket is cleared if L changed, and the
hold-limit timer set if the hold limit changed. -/
def Tracker.rethreshold (t : Tracker) (m : Moment) (old new : ChannelProfile) : Tracker :=
  { t with
    bucket := if old.driftLimit = new.driftLimit then t.bucket else 0
    holdTimer :=
      if old.holdLimit = new.holdLimit then t.holdTimer
      else if t.state.isActive then startHoldTimer m new.holdLimit else .stopped }

/-- A channel brought into line with its new profile (08 R150, step 4). -/
def State.realignChannel (old new : Configuration) (s : State) (n : ChannelId) : State :=
  let f := old.channels.get n
  let g := new.channels.get n
  if f = g then s
  else if sameMeasurement f g then s.setTracker n ((s.trackers.get n).rethreshold s.moment f g)
  else s.trackerMoves n ((s.trackers.get n).reinitialise n g)

/-- Every channel brought into line, in channel order (08 R150, step 4). -/
def State.realignChannels (s : State) (old new : Configuration) : State :=
  ChannelId.all.foldl (State.realignChannel old new) s

end Sys2Proof.Machine
end

