-- ==== Sys2Proof/Machine/LeaseUnit.lean ====
section
/-! DEFINITION. The lease and its timer, HALT and RESUME, and RESTART (08 sections 8.1 to 8.3, 8.9; 01 R15, R16). -/

namespace Sys2Proof.Machine

/-! ### Taking and giving up the lease -/

/-- GRANTED (08 R132, 10 R182): holder, kept, lease state, lease time in steps of 100 ms, epoch. -/
def State.granted (s : State) (p : Port) (kept : Bool) : Reply :=
  ⟨.granted, [portCode p, yesNo kept, s.lease.code, u8 s.config.hub.leaseSteps, s.epoch]⟩

/-- The lease given to a port, with a fresh staging copy, not dirty, and its timer started (08 R133, R134). -/
def State.grantTo (s : State) (p : Port) : State :=
  s.setLease (.held p s.config false (s.now + s.leaseTime))

/-- The rank of a port in the active configuration (08 R132). -/
def State.rank (s : State) (p : Port) : Nat := (s.config.ports.get p).rank

/-- TAKE_LEASE with its preempt parameter in range (08 R132 to R134). -/
def State.takeLease (s : State) (p : Port) (preempt : Bool) : State × Reply :=
  match s.lease with
  | .free => (s.grantTo p, (s.grantTo p).granted p false)
  | .held h _ _ _ =>
    if h = p then (s, s.granted p true)
    else if preempt ∧ s.rank h < s.rank p then
      let t := (s.offerTo h (.lease .preempted)).grantTo p
      (t, t.granted p false)
    else (s, ⟨.leaseBusy, [portCode h, u8 (s.rank h)]⟩)
  | .committing h _ _ => if h = some p then (s, s.granted p true) else (s, .busyCommitting h)

/-- TAKE_LEASE (08 R132 to R134). -/
def execTakeLease (p : Port) (tag : Byte) (preempt : Byte) (s : State) : Result State :=
  s.request p tag .anySession fun s =>
    match bool? preempt with
    | none => (s, .badValue 0)
    | some b => s.takeLease p b

/-- RELEASE_LEASE (08 R135). -/
def execReleaseLease (p : Port) (tag : Byte) (s : State) : Result State :=
  s.request p tag .holder fun s => (s.setLease .free, .plain .ok)

/-- LEASE_TIMER_EXPIRY (08 R136): the timer reaches 0 in HELD; it does not run in FREE and COMMITTING. -/
def execLeaseTimerExpiry (s : State) : Result State :=
  s.whileRunning fun s =>
    match s.lease with
    | .free | .committing _ _ _ => s
    | .held h _ _ expiry => ((s.advanceTo expiry).setLease .free).offerTo h (.lease .expired)

/-! ### HALT, RESUME and RESTART -/

/-- HALT while RUN (01 R15): the sweep in progress is abandoned and the RUNNING hold-limit timers pause. -/
def State.halted (s : State) : State :=
  match s.sequencer.run with
  | .halted => s
  | .run =>
    (s.setSequencer { s.sequencer with run := .halted, position := none }).mapHoldTimers (HoldTimer.pause s.now)

/-- HALT (01 R15, 08 R153). -/
def execHalt (p : Port) (tag : Byte) (s : State) : Result State :=
  s.request p tag .holder fun s => (s.halted, .plain .ok)

/-- RESUME while HALTED (01 R16): the PAUSED timers resume and a stopped tick schedule is started. -/
def State.resumed (s : State) : State :=
  match s.sequencer.run with
  | .run => s
  | .halted =>
    (s.setSequencer
      { s.sequencer with run := .run, nextTick := some (s.sequencer.nextTick.getD (s.now + s.sweepPeriod)) }).mapHoldTimers
      (HoldTimer.resume s.now)

/-- RESUME (01 R16, 08 R153). -/
def execResume (p : Port) (tag : Byte) (s : State) : Result State :=
  s.request p tag .holder fun s => (s.resumed, .plain .ok)

/-- RESTART (08 R154, 09 R168): BUSY while a store is in progress, and a delay that already runs is not moved. R154 gives both
answers to a RESTART that finds a delay running and a store in progress; BUSY is the model's choice (log 27). -/
def execRestart (p : Port) (tag : Byte) (s : State) : Result State :=
  s.request p tag .holder fun s =>
    match s.images.store with
    | some _ => (s, .busyStoring p)
    | none => (s.setRestartDelay (some (s.restartDelay.getD (s.now + milliseconds 5))), .plain .ok)

end Sys2Proof.Machine
end

