-- ==== Sys2Proof/Machine/Sessions.lean ====
section
/-! DEFINITION. Sessions, subscriptions, snapshots and the end of an attention pulse (05). -/

namespace Sys2Proof.Machine

/-- The session that OPEN's parameters ask for (05 R73). -/
def openedSession (channels : BitVec 24) (terms : BitVec 16) (classes mode threshold : Byte) : Session :=
  let m := (attentionMode? mode).getD .level
  { channelMask := channels
    termMask := terms
    transitions := classes.getLsbD 0
    maintenance := classes.getLsbD 1
    mode := m
    threshold := threshold.toNat
    rearm :=
      match m with
      | .level => none
      | .pulse => some .armed }

/-- Every entry of a port freed, in any state (07 R126). -/
def freePort (p : Port) (table : List FreshEntry) : List FreshEntry :=
  table.filter fun e => decide (e.owner ≠ p)

/-- The port's session opened or re-opened (05 R73, R74): queue and lapsed set empty, the next sequence 1,
the line inactive; the port's fresh-sample entries are freed (a CLOSED port holds none, 05 R77). The moment of a re-open
is kept (05 R88). -/
def State.opened (s : State) (p : Port) (se : Session) : State :=
  let d := s.delivery.get p
  (s.setDeliveryOf p { Delivery.closed d.line.quiet with
      session := some se
      reopened := if d.session.isSome then some s.now else none }).setFresh (freePort p s.fresh)

/-- OPEN (05 R73 to R75). -/
def execOpenSession (p : Port) (tag : Byte) (channels : BitVec 24) (terms : BitVec 16)
    (classes mode threshold : Byte) (s : State) : Result State :=
  s.request p tag .anyPort <|
    rangeGate [(5, classMaskOk classes), (6, (attentionMode? mode).isSome), (7, between 1 threshold.toNat 32)]
      fun s => (s.opened p (openedSession channels terms classes mode threshold), .plain .ok)

/-- The lease at a CLOSE of a port's session (05 R76): released in HELD, left without a holder in COMMITTING. -/
def Lease.closedBy (p : Port) : Lease → Lease
  | .free => .free
  | .held h staging dirty expiry => if h = p then .free else .held h staging dirty expiry
  | .committing h staging dirty => if h = some p then .committing none staging dirty else .committing h staging dirty

/-- The port's session closed (05 R76, R77). -/
def State.closed (s : State) (p : Port) : State :=
  ((s.setDeliveryOf p (Delivery.closed (s.delivery.get p).line.quiet)).setFresh (freePort p s.fresh)).setLease
    (s.lease.closedBy p)

/-- CLOSE (05 R76). -/
def execCloseSession (p : Port) (tag : Byte) (s : State) : Result State :=
  s.request p tag .anySession fun s => (s.closed p, .plain .ok)

/-- The lapsed set pruned to new masks (05 R80): channel members need their mark and a class, term members
their mark and TRANSITIONS; the notice slots stay. -/
def Lapsed.prune (l : Lapsed) (channels : BitVec 24) (terms : BitVec 16) (classes : Byte) : Lapsed :=
  { l with
    channels := if classes = 0 then 0 else l.channels &&& channels
    terms := if classes.getLsbD 0 then l.terms &&& terms else 0 }

/-- New masks for a port's session (05 R80). -/
def Delivery.subscribe (d : Delivery) (channels : BitVec 24) (terms : BitVec 16) (classes : Byte) : Delivery :=
  { d with
    session := d.session.map fun se =>
      { se with
        channelMask := channels
        termMask := terms
        transitions := classes.getLsbD 0
        maintenance := classes.getLsbD 1 }
    lapsed := d.lapsed.prune channels terms classes }

/-- SUBSCRIBE (05 R80). -/
def execSubscribe (p : Port) (tag : Byte) (channels : BitVec 24) (terms : BitVec 16) (classes : Byte)
    (s : State) : Result State :=
  s.request p tag .anySession <|
    rangeGate [(5, classMaskOk classes)]
      fun s => (s.setDeliveryOf p ((s.delivery.get p).subscribe channels terms classes), .plain .ok)

/-- The last sequence of a snapshot (05 R82): the one before the next-sequence counter in the series
1..65535, 0 when nothing has been appended since OPEN. -/
def Delivery.lastSequence (d : Delivery) : BitVec 16 :=
  if d.appended then (if d.nextSeq = 1 then 0xFFFF else d.nextSeq - 1) else 0

/-- The snapshot of the view (05 R82, 10 R182): 48 bytes. -/
def State.snapshot (s : State) (p : Port) : List Byte :=
  (ChannelId.all.map fun n => (s.trackers.get n).state.code) ++
  (TermId.all.map fun k => (s.terms.get k).state.code) ++
  [s.epoch, runStateCode s.sequencer.run] ++ bytesOf32 s.sequencer.number ++
  bytesOf16 (s.delivery.get p).lastSequence

/-- READ_STATE (05 R82, R83). -/
def execReadState (p : Port) (tag : Byte) (s : State) : Result State :=
  s.request p tag .anySession fun s => (s, ⟨.ok, s.snapshot p⟩)

/-- The tracker record of a channel as READ_TRACKER reports it (05 R84, 10 R182): 24 bytes. -/
def trackerBytes (now : Nat) (n : ChannelId) (t : Tracker) : List Byte :=
  let left := t.holdTimer.remaining now
  [u8 n.val, t.state.code,
   flag 0x01 t.baseline.isSome + flag 0x02 t.lastRaw.isSome + flag 0x04 t.difference.isSome +
   flag 0x08 t.debounce.isSome + flag 0x10 t.activeSince.isSome + flag 0x20 left.isSome] ++
  u16 (t.baseline.getD 0) ++ u16 (t.lastRaw.getD 0) ++ i32 (t.difference.getD 0) ++ i16 t.bucket ++
  [u8 t.lowRun, u8 (t.debounce.getD 0), u8 t.outOfRangeRun, yesNo t.reseed] ++
  bytesOf32 (t.activeSince.getD 0) ++ [t.holdTimer.code] ++ u16 (left.getD 0)

/-- READ_TRACKER (05 R84). -/
def execReadTracker (p : Port) (tag : Byte) (channel : Byte) (s : State) : Result State :=
  s.request p tag .anySession fun s =>
    match channel? channel.toNat with
    | none => (s, .badValue 0)
    | some n => (s, ⟨.ok, trackerBytes s.now n (s.trackers.get n)⟩)

/-- PULSE_END (05 R87): the pulse in progress ends 10 µs after it began; without one nothing ends. -/
def execPulseEnd (p : Port) (s : State) : Result State :=
  s.whileRunning fun s =>
    let d := s.delivery.get p
    match d.line.pulseEnd with
    | none => s
    | some t => (s.advanceTo t).setDeliveryOf p { d with line := d.line.quiet }

end Sys2Proof.Machine
end

