-- ==== Sys2Proof/Machine/Terms.lean ====
section
/-! DEFINITION. The term evaluator: inputs, functions, the arrival window and the state step at a sweep close (04 R59 to
R66), and the resets of a commit point (04 R69). -/

namespace Sys2Proof.Machine

/-- The stamp of an input that reads active, `none` where the input reads inactive (04 R59). The stamp of an
active channel is its active-since stamp, that of a TRUE term its true-since stamp. -/
def State.inputStamp (s : State) : Source → Option (BitVec 32)
  | .channel n =>
    let t := s.trackers.get n
    if t.state.isActive then some (t.activeSince.getD 0) else none
  | .term j =>
    let r := s.terms.get j
    if r.state = .true then some (r.trueSince.getD 0) else none

/-- The stamps of the inputs that read active (04 R59). -/
def State.activeStamps (s : State) (inputs : List Source) : List (BitVec 32) := inputs.filterMap s.inputStamp

/-- The function is satisfied by the number of active inputs out of n (04 R60). -/
def satisfied (f : TermFunction) (active n : Nat) : Bool :=
  match f with
  | .any => decide (1 ≤ active)
  | .all => decide (active = n)
  | .one => decide (active = 1)
  | .none => decide (active = 0)

/-- The ages of stamps: the current sweep number minus the stamp, modulo 2^32 (04 R66). -/
def ages (number : BitVec 32) (stamps : List (BitVec 32)) : List Nat := stamps.map fun x => (number - x).toNat

/-- The largest age less the smallest (04 R66). -/
def spread (l : List Nat) : Nat :=
  match l with
  | [] => 0
  | x :: xs => xs.foldl max x - xs.foldl min x

/-- The arrival window is met, or there is none (04 R63, R66). -/
def windowMet (window : Nat) (number : BitVec 32) (stamps : List (BitVec 32)) : Bool :=
  decide (window = 0) || decide (spread (ages number stamps) ≤ window)

/-- Entry into TRUE (04 R58, R63). -/
def enterTrue (number : BitVec 32) : TermRecord := { state := .true, arming := none, trueSince := some number }

/-- The state step of an enabled term at a close (04 R63, R64), over the stamps of its active inputs. -/
def TermRecord.step (r : TermRecord) (k : TermId) (d : TermDefinition) (number : BitVec 32)
    (stamps : List (BitVec 32)) : TermRecord × Option Report :=
  let sat := satisfied d.function stamps.length d.inputs.length
  match r.state with
  | .off => (r, none)
  | .false =>
    if sat then
      if windowMet d.window number stamps then
        if d.holdSweeps = 0 then (enterTrue number, some (.tmTrue k))
        else ({ r with state := .arming, arming := some 1 }, none)
      else ({ r with state := .blocked }, some (.tmBlocked k))
    else (r, none)
  | .arming =>
    if sat then
      if r.arming.getD 0 + 1 = d.holdSweeps + 1 then (enterTrue number, some (.tmTrue k))
      else ({ r with arming := some (r.arming.getD 0 + 1) }, none)
    else ({ r with state := .false, arming := none }, none)
  | .true =>
    if sat then (r, none)
    else ({ r with state := .false, trueSince := none }, some (.tmFalse k .false .normal))
  | .blocked =>
    if stamps.isEmpty then ({ r with state := .false }, some (.tmFalse k .false .unblock)) else (r, none)

/-- A term's new record and the event it makes (04 R61). -/
def State.termMoves (s : State) (k : TermId) (x : TermRecord × Option Report) : State :=
  match x.2 with
  | none => s.setTerm k x.1
  | some r => (s.setTerm k x.1).offerAll r

/-- One term at a close: an enabled term takes its step, an OFF term is passed over (04 R61, R65). -/
def State.evaluateTerm (s : State) (k : TermId) : State :=
  let d := s.config.terms.get k
  if d.enabled then s.termMoves k ((s.terms.get k).step k d s.sequencer.number (s.activeStamps d.inputs))
  else s

/-- Term evaluation at a sweep close: terms 0..15 in order (04 R61). -/
def State.evaluateTerms (s : State) : State := TermId.all.foldl State.evaluateTerm s

/-- The state a term takes after a reset or a change of its definition (04 R69, R71). -/
def termStartState (d : TermDefinition) : TermState := if d.enabled then .false else .off

/-- A term whose definition differs is reset, with TM_FALSE of cause CONFIG if it was TRUE or BLOCKED (04 R69). -/
def State.resetTerm (old new : Configuration) (s : State) (k : TermId) : State :=
  let d := new.terms.get k
  if old.terms.get k = d then s
  else
    s.termMoves k (blankTerm (termStartState d),
      match (s.terms.get k).state with
      | .true | .blocked => some (.tmFalse k (termStartState d) .config)
      | .off | .false | .arming => none)

/-- Every changed term reset, in term order (08 R150, step 5). -/
def State.resetTerms (s : State) (old new : Configuration) : State :=
  TermId.all.foldl (State.resetTerm old new) s

end Sys2Proof.Machine
end

