-- ==== Sys2Proof/Machine/Staging.lean ====
section
/-! DEFINITION. Staged writes, the reading of items, COMMIT and the commit point (08 sections 8.5 to 8.8). -/

namespace Sys2Proof.Machine

/-- The staging configuration replaced in HELD, the dirty indication recomputed against the active
configuration (08 R140). -/
def State.stage (s : State) (f : Configuration → Configuration) : State :=
  match s.lease with
  | .held h staging _ expiry =>
    s.setLease (.held h (f staging) (decide (f staging ≠ s.config)) expiry)
  | .free | .committing _ _ _ => s

/-- The dirty indication (08 section 8.1). -/
def Lease.dirty : Lease → Bool
  | .free => false
  | .held _ _ dirty _ => dirty
  | .committing _ _ dirty => dirty

/-- The staging configuration (08 section 8.1). -/
def Lease.staging : Lease → Option Configuration
  | .free => none
  | .held _ staging _ _ => some staging
  | .committing _ staging _ => some staging

/-- A staged write answered OK with the dirty indication (08 R141 to R143). -/
def State.stagedWrite (s : State) (f : Configuration → Configuration) : State × Reply :=
  (s.stage f, ⟨.ok, [yesNo (s.stage f).lease.dirty]⟩)

/-- SET_CHANNEL (08 R141). -/
def execSetChannel (p : Port) (tag : Byte) (channel : Byte) (f : ChannelParams) (s : State) : Result State :=
  s.request p tag .holder fun s =>
    match channel? channel.toNat with
    | none => (s, .badValue 0)
    | some n =>
      rangeGate (channelFields f)
        (fun s => s.stagedWrite fun cfg => { cfg with channels := setAt cfg.channels n (profileOf f) }) s

/-- SET_SCANLIST (08 R142). -/
def execSetScanlist (p : Port) (tag : Byte) (entries : List Byte) (s : State) : Result State :=
  s.request p tag .holder <|
    rangeGate ((0, between 1 entries.length 24) :: offsetFields 1 (fun b => decide (b.toNat < 24)) entries)
      fun s => s.stagedWrite fun cfg => { cfg with scanList := entries.map (·.toNat) }

/-- SET_TERM (04 R56). -/
def execSetTerm (p : Port) (tag : Byte) (term : Byte) (d : TermParams) (s : State) : Result State :=
  s.request p tag .holder fun s =>
    match term? term.toNat with
    | none => (s, .badValue 0)
    | some k =>
      rangeGate (termFields d)
        (fun s => s.stagedWrite fun cfg => { cfg with terms := setAt cfg.terms k (definitionOf d) }) s

/-- SET_HUB (08 R143). -/
def execSetHub (p : Port) (tag : Byte) (period : BitVec 16) (startMode leaseSteps : Byte) (s : State) : Result State :=
  s.request p tag .holder <|
    rangeGate [(0, between 5 period.toNat 500), (2, (runState? startMode).isSome), (3, between 5 leaseSteps.toNat 100)]
      fun s => s.stagedWrite fun cfg =>
        { cfg with hub := ⟨period.toNat, (runState? startMode).getD .run, leaseSteps.toNat⟩ }

/-- SET_PORT (08 R143). -/
def execSetPort (p : Port) (tag : Byte) (port rank polarity : Byte) (s : State) : Result State :=
  s.request p tag .holder fun s =>
    match port? port with
    | none => (s, .badValue 0)
    | some q =>
      rangeGate [(1, between 0 rank.toNat 3), (2, (polarity? polarity).isSome)]
        (fun s => s.stagedWrite fun cfg =>
          { cfg with ports := cfg.ports.set q ⟨rank.toNat, (polarity? polarity).getD .activeLow⟩ }) s

/-- LOAD_STAGING answered OK (08 R144, 10 R182): source, dirty, slot, generation. -/
def State.loaded (s : State) (source : StagingSource) (cfg : Configuration) (slot : Byte)
    (generation : BitVec 32) : State × Reply :=
  let t := s.stage fun _ => cfg
  (t, ⟨.ok, [source.code, yesNo t.lease.dirty, slot] ++ bytesOf32 generation⟩)

/-- LOAD_STAGING (08 R144). -/
def execLoadStaging (p : Port) (tag : Byte) (source : Byte) (s : State) : Result State :=
  s.request p tag .holder fun s =>
    match stagingSource? source with
    | none => (s, .badValue 0)
    | some .active => s.loaded .active s.config 0xFF 0
    | some .factory => s.loaded .factory factoryConfiguration 0xFF 0
    | some .image =>
      match s.images.newest with
      | none => (s, .plain .noImage)
      | some (id, cfg) => s.loaded .image cfg id.code (s.images.slot id).generation

/-- READ_STAGING (08 R145). -/
def execReadStaging (p : Port) (tag : Byte) (item : Byte) (s : State) : Result State :=
  s.request p tag .holderReading fun s =>
    match item? item with
    | none => (s, .badValue 0)
    | some i =>
      (s, ⟨.ok, [item, yesNo s.lease.dirty] ++ itemBytes (s.lease.staging.getD s.config) i⟩)

/-- READ_CONFIG (08 R145). -/
def execReadConfig (p : Port) (tag : Byte) (item : Byte) (s : State) : Result State :=
  s.request p tag .anySession fun s =>
    match item? item with
    | none => (s, .badValue 0)
    | some i => (s, ⟨.ok, [item, s.epoch] ++ itemBytes s.config i⟩)

/-- COMMIT past the lease gate (08 R147). An accepted commit is a claim on the unit (01 R18). -/
def State.commitRequest (s : State) : State × Reply :=
  match s.lease with
  | .free | .committing _ _ _ => (s, .plain .notHolder)
  | .held h staging dirty _ =>
    if dirty then
      match firstViolation staging with
      | some (item, constraint) => (s, ⟨.invalid, [itemCode item, constraintCode constraint]⟩)
      | none => ((s.setLease (.committing (some h) staging dirty)).consult, ⟨.accepted, [s.epoch + 1]⟩)
    else (s, .plain .noChange)

/-- COMMIT (08 R147). -/
def execCommit (p : Port) (tag : Byte) (s : State) : Result State :=
  s.request p tag .holder State.commitRequest

/-- The attention polarities of the port profiles applied (05 R85; 08 R150, step 7). -/
def State.applyPolarities (s : State) : State :=
  Port.all.foldl (fun s p =>
    let d := s.delivery.get p
    s.setDeliveryOf p { d with line := { d.line with polarity := (s.config.ports.get p).polarity } }) s

/-- The sweep tick schedule restarted with the period in force (01 R9). -/
def State.restartSchedule (s : State) : State :=
  s.setSequencer { s.sequencer with nextTick := some (s.now + s.sweepPeriod) }

/-- The lease settled after the steps of the commit point (08 R151). -/
def State.settleLease (s : State) (holder : Option Port) : State :=
  match holder with
  | some p => s.setLease (.held p s.config false (s.now + s.leaseTime))
  | none => s.setLease .free

/-- Steps 1 and 2 of the commit point (08 R150). -/
def State.enactStaging (s : State) (staging : Configuration) : State :=
  (s.setActive (some staging)).setEpoch (s.epoch + 1)

/-- Steps 1 to 8 of the commit point, in order (08 R150). -/
def State.commitSteps (s : State) (staging : Configuration) : State :=
  let s1 := s.enactStaging staging
  let s3 := s1.offerAll (.epoch s1.epoch)
  let s4 := s3.realignChannels s.config staging
  let s5 := s4.resetTerms s.config staging
  s5.completeOffSamples.applyPolarities.restartSchedule

/-- Step 9 of the commit point: the COMMITTED notice to the holder, if there is one (08 R150). -/
def State.offerCommitted (s : State) (holder : Option Port) : State :=
  match holder with
  | some p => s.offerTo p (.lease .committed)
  | none => s

/-- COMMIT_POINT (08 R149 to R151): reached where the arbiter finds a commit waiting, no sweep in progress
and the unit IDLE; elsewhere there is none. -/
def execCommitPoint (s : State) : Result State :=
  s.whileRunning fun s =>
    match s.lease, s.sequencer.position, s.unit with
    | .committing holder staging _, none, none =>
      (((s.commitSteps staging).offerCommitted holder).settleLease holder).consult
    | _, _, _ => s

end Sys2Proof.Machine
end

