-- ==== Sys2Proof/Machine/StatusBlock.lean ====
section
/-! DEFINITION. READ_STATUS, CLEAR_COUNTERS and IDENTIFY (11). -/

namespace Sys2Proof.Machine

/-- The holder as READ_STATUS reports it (11 R187). -/
def Lease.holder : Lease → Option Port
  | .free => none
  | .held h _ _ _ => some h
  | .committing h _ _ => h

/-- The last store result, 00h while absent (10 R182). -/
def lastResultCode : Option StoreResult → Byte
  | none => 0x00
  | some r => r.code

/-- Two bytes for each port, A first. -/
def perPort (m : PortMap (BitVec 16)) : List Byte := bytesOf16 m.a ++ bytesOf16 m.b ++ bytesOf16 m.c

/-- The ten counters as READ_STATUS reports them (10 R182). -/
def Counters.bytes (c : Counters) : List Byte :=
  bytesOf16 c.sweepOverruns ++ bytesOf16 c.disturbedSkips ++ bytesOf16 c.outOfRange ++
  bytesOf16 c.freshDiscards ++ perPort c.lapses ++ perPort c.checkErrors

/-- The status block and the present conditions of the other blocks (11 R187, 10 R182): 33 bytes. -/
def State.statusBytes (s : State) : List Byte :=
  [s.status.cause.code, s.status.source.code, s.epoch, runStateCode s.sequencer.run] ++
  bytesOf32 s.sequencer.number ++
  [s.lease.code, holderCode s.lease.holder, storeStateCode s.images.store, lastResultCode s.images.lastResult,
   s.supply.code] ++
  s.status.counters.bytes

/-- READ_STATUS (11 R187). -/
def execReadStatus (p : Port) (tag : Byte) (s : State) : Result State :=
  s.request p tag .anyPort fun s => (s, ⟨.ok, s.statusBytes⟩)

/-- CLEAR_COUNTERS (11 R190): all ten counters, of every port. -/
def execClearCounters (p : Port) (tag : Byte) (s : State) : Result State :=
  s.request p tag .anySession fun s => (s.setCounters .zero, .plain .ok)

/-- The vendor code 5Ah, the part code 0324h and the revision 01h (11 R188). -/
def identity : List Byte := [0x5A, 0x03, 0x24, 0x01]

/-- IDENTIFY (11 R188). -/
def execIdentify (p : Port) (tag : Byte) (s : State) : Result State :=
  s.request p tag .anyPort fun s => (s, ⟨.ok, identity⟩)

end Sys2Proof.Machine
end

