-- ==== Sys2Proof/Machine/StoreController.lean ====
section
/-! DEFINITION. STORE, its phases and completion, and the supply monitor (09 sections 9.4 to 9.8). -/

namespace Sys2Proof.Machine

/-- A store begins (09 R163): the snapshot is the active configuration, the target is invalid from now on
(its check is gone), and ERASING lasts 30 ms. -/
def State.beginStore (s : State) (p : Port) : State :=
  let target := s.images.nextTarget
  let slot := s.images.slot target.1
  s.setImages
    { s.images.setSlot target.1 { slot with check := none } with
      store := some
        { phase := .erasing
          snapshot := s.config
          port := p
          target := target.1
          generation := target.2
          endTime := s.now + milliseconds 30 } }

/-- STORE past the lease gate (09 R162). -/
def State.storeRequest (s : State) (p : Port) : State × Reply :=
  match s.images.store with
  | some _ => (s, .busyStoring p)
  | none =>
    if s.supply = .low then (s, .plain .lowSupply)
    else if s.images.newestGeneration = some 4294967294#32 then (s, .plain .generationLimit)
    else
      (s.beginStore p,
        ⟨.accepted, s.images.nextTarget.1.code :: bytesOf32 s.images.nextTarget.2⟩)

/-- STORE (09 R162, R163). -/
def execStore (p : Port) (tag : Byte) (s : State) : Result State :=
  s.request p tag .holder fun s => s.storeRequest p

/-- The end of ERASING: the target's cells are erased, and PROGRAMMING lasts 25 ms (09 R164, section 9.6). -/
def ImageStore.erased (im : ImageStore) (r : StoreRecord) (now : Nat) : ImageStore :=
  { im.setSlot r.target Slot.erased with
    store := some { r with phase := .programming, endTime := now + milliseconds 25 } }

/-- ERASING_END (09 R164). -/
def execErasingEnd (s : State) : Result State :=
  s.whileRunning fun s =>
    match s.images.store with
    | none => s
    | some r =>
      match r.phase with
      | .programming | .verifying => s
      | .erasing =>
        let s := s.advanceTo r.endTime
        s.setImages (s.images.erased r s.now)

/-- The end of PROGRAMMING: the target holds the target generation and the snapshot, its check still
erased, and VERIFYING lasts 5 ms (09 R164, section 9.6). -/
def ImageStore.programmed (im : ImageStore) (r : StoreRecord) (now : Nat) : ImageStore :=
  { im.setSlot r.target { generation := r.generation, configuration := some r.snapshot, check := none } with
    store := some { r with phase := .verifying, endTime := now + milliseconds 5 } }

/-- PROGRAMMING_END (09 R164). -/
def execProgrammingEnd (s : State) : Result State :=
  s.whileRunning fun s =>
    match s.images.store with
    | none => s
    | some r =>
      match r.phase with
      | .erasing | .verifying => s
      | .programming =>
        let s := s.advanceTo r.endTime
        s.setImages (s.images.programmed r s.now)

/-- A store completes (09 R166): the result is kept, the store is IDLE, and the STORE notice is offered to
the port that asked, if its session is open. -/
def State.completeStore (s : State) (r : StoreRecord) (result : StoreResult) : State :=
  (s.setImages { s.images with store := none, lastResult := some result }).offerTo r.port (.store result)

/-- What is read back from the target is what it holds; its check is written on a match with the target
generation and the snapshot (09 R164). -/
def ImageStore.verified (im : ImageStore) (r : StoreRecord) (generation : BitVec 32)
    (readBack : Option Configuration) : ImageStore :=
  im.setSlot r.target
    { generation := generation
      configuration := readBack
      check :=
        if generation = r.generation ∧ readBack = some r.snapshot
        then some (Config.crc16 r.generation r.snapshot) else none }

/-- The result of VERIFYING (09 R164). -/
def verifyResult (r : StoreRecord) (generation : BitVec 32) (readBack : Option Configuration) : StoreResult :=
  if generation = r.generation ∧ readBack = some r.snapshot then .ok else .verifyFail

/-- VERIFYING_END (09 R164, R166). -/
def execVerifyingEnd (generation : BitVec 32) (readBack : Option Configuration) (s : State) : Result State :=
  s.whileRunning fun s =>
    match s.images.store with
    | none => s
    | some r =>
      match r.phase with
      | .erasing | .programming => s
      | .verifying =>
        let s := s.advanceTo r.endTime
        (s.setImages (s.images.verified r generation readBack)).completeStore r (verifyResult r generation readBack)

/-- The target of a store that is cut short (09 R165, R167): its check stays erased, so it is invalid. The
cells of an erase or a programming that was cut off are free values; VERIFYING only reads them (log 14). -/
def ImageStore.cutShort (im : ImageStore) (r : StoreRecord) : ImageStore :=
  { im.setSlot r.target
      (match r.phase with
       | .verifying => { im.slot r.target with check := none }
       | .erasing | .programming =>
         { generation := Config.cutShortGeneration im.cuts
           configuration := Config.cutShortConfiguration im.cuts
           check := none }) with
    cuts := im.cuts + 1 }

/-- SUPPLY_LOW (09 R165): a change from GOOD aborts a store in progress with SUPPLY_FAIL. -/
def execSupplyLow (s : State) : Result State :=
  match s.supply with
  | .low => .next s
  | .good =>
    let t := s.setSupply .low
    match t.images.store with
    | none => .next t
    | some r => .next ((t.setImages (t.images.cutShort r)).completeStore r .supplyFail)

/-- SUPPLY_GOOD (09 R165): no effect beyond the condition. -/
def execSupplyGood (s : State) : Result State := .next (s.setSupply .good)

end Sys2Proof.Machine
end

