-- ==== Sys2Proof/Machine/PortTransactions.lean ====
section
/-! DEFINITION. Transactions on the ports, the receiving of messages and the transport checks (10 sections 10.1 to 10.5). -/

namespace Sys2Proof.Machine

/-- The status of a message the transport checks refuse (10 R173). -/
def transportStatus : TransportError → StatusCode
  | .frame => .frameError
  | .check => .checkError
  | .code => .unknownRequest
  | .length => .badLength

/-- A message refused by the transport checks (10 R173, R174, R176): its status and echoed tag replace the
held response, and CHECK_ERROR is counted. -/
def State.refuseMessage (s : State) (p : Port) (message : List Byte) (e : TransportError) : State :=
  let t := s.hold p ⟨transportStatus e, echoedTag message, []⟩
  match e with
  | .check =>
    let c := t.status.counters
    t.setCounters { c with checkErrors := c.checkErrors.set p (saturatingIncrement (c.checkErrors.get p)) }
  | .frame | .code | .length => t

/-- TRANSPORT_REFUSAL (10 R173): a message received on a port that fails a transport check; a message that
passes them all is not refused here. -/
def execTransportRefusal (p : Port) (message : List Byte) (overflow : Bool) (s : State) : Result State :=
  s.whileRunning fun s =>
    match decodeMessage p message overflow with
    | .error e => s.refuseMessage p message e
    | .ok _ => s

/-- A request taken from a message (10 R173): the meaning of its own row. A command that is no request is
not among what a message decodes to. -/
def takeRequest (i : Instr) (s : State) : Result State :=
  match i with
  | .openSession p tag c t classes mode threshold => execOpenSession p tag c t classes mode threshold s
  | .closeSession p tag => execCloseSession p tag s
  | .subscribe p tag c t classes => execSubscribe p tag c t classes s
  | .readState p tag => execReadState p tag s
  | .readTracker p tag channel => execReadTracker p tag channel s
  | .readEvents p tag count mode => execReadEvents p tag count mode s
  | .ackEvents p tag sequence => execAckEvents p tag sequence s
  | .sample p tag channel sampleTag => execSample p tag channel sampleTag s
  | .fetch p tag sampleTag => execFetch p tag sampleTag s
  | .cancel p tag sampleTag => execCancel p tag sampleTag s
  | .takeLease p tag preempt => execTakeLease p tag preempt s
  | .releaseLease p tag => execReleaseLease p tag s
  | .setChannel p tag channel f => execSetChannel p tag channel f s
  | .setScanlist p tag entries => execSetScanlist p tag entries s
  | .setTerm p tag term d => execSetTerm p tag term d s
  | .setHub p tag period startMode leaseSteps => execSetHub p tag period startMode leaseSteps s
  | .setPort p tag port rank polarity => execSetPort p tag port rank polarity s
  | .loadStaging p tag source => execLoadStaging p tag source s
  | .readStaging p tag item => execReadStaging p tag item s
  | .readConfig p tag item => execReadConfig p tag item s
  | .commit p tag => execCommit p tag s
  | .halt p tag => execHalt p tag s
  | .resume p tag => execResume p tag s
  | .store p tag => execStore p tag s
  | .restart p tag => execRestart p tag s
  | .readStatus p tag => execReadStatus p tag s
  | .clearCounters p tag => execClearCounters p tag s
  | .identify p tag => execIdentify p tag s
  | .transportRefusal _ _ _ | .transactionStart _ _ _ _ | .transactionEnd _ | .measurementComplete _
  | .sweepTick | .commitPoint | .holdLimitExpiry _ | .discardTimerExpiry _ _ | .leaseTimerExpiry
  | .restartDelayExpiry _ | .erasingEnd | .programmingEnd | .verifyingEnd _ _ | .supplyLow | .supplyGood
  | .powerReset | .lineReset | .resetEnd _ | .startUpLoadComplete | .pulseEnd _ => .next s

/-- A message received on a port: refused by the transport checks, or taken as a request (10 R172, R173). -/
def State.receiveMessage (s : State) (p : Port) (message : List Byte) (overflow : Bool) : Result State :=
  match decodeMessage p message overflow with
  | .error e => .next (s.refuseMessage p message e)
  | .ok i => takeRequest i s

/-- The most bytes a receive buffer holds (10 R172). -/
def bufferCapacity : Nat := 41

/-- A port interface outside a transaction, its buffer empty (10 R171, R172). -/
def PortInterface.ended (i : PortInterface) : PortInterface :=
  { i with indication := .none, buffer := [], overflow := false }

/-- The transaction of a port ends (10 R171, R172): the indication becomes NONE, and then a write
transaction's message is received, if one was written. -/
def State.endTransaction (s : State) (p : Port) : Result State :=
  let i := s.ports.get p
  let t := s.setPort p i.ended
  match i.indication with
  | .none => .next s
  | .read => .next t
  | .write => if i.buffer.isEmpty && !i.overflow then .next t else t.receiveMessage p i.buffer i.overflow

/-- TRANSACTION_END (10 R171, R172). -/
def execTransactionEnd (p : Port) (s : State) : Result State :=
  match s.phase with
  | .inReset | .loading _ => .next s
  | .running => s.endTransaction p

/-- The disturbance mark set while the unit is MEASURING (01 R5). -/
def State.markDisturbed (s : State) : State :=
  s.setUnit (s.unit.map fun m => { m with disturbed := true })

/-- A port acknowledges its own address in a start or repeated start condition, from the completion of the load to the
beginning of the next reset, and no other address (09 R159, 10 R169). -/
def State.acknowledgesAddress (s : State) (p : Port) (address : BitVec 7) : Bool :=
  match s.phase with
  | .inReset | .loading _ => false
  | .running => decide (address = (s.ports.get p).address)

/-- A port acknowledges the next data byte that the host writes: in a write transaction, while the buffer has room (10 R172). -/
def PortInterface.acknowledgesByte (i : PortInterface) : Bool :=
  match i.indication with
  | .write => decide (i.buffer.length < bufferCapacity)
  | .none | .read => false

/-- A data byte written to the port (10 R172): one that is acknowledged is stored, and one that is not sets the overflow mark.
Outside a write transaction the port takes none. -/
def PortInterface.receiveByte (i : PortInterface) (byte : Byte) : PortInterface :=
  match i.indication with
  | .write => if i.acknowledgesByte then { i with buffer := i.buffer ++ [byte] } else { i with overflow := true }
  | .none | .read => i

/-- A port interface in a transaction that has begun (10 R171), with the data bytes that the host writes in it received one
after another (10 R172). -/
def PortInterface.begun (i : PortInterface) (direction : Direction) (written : List Byte) : PortInterface :=
  match direction with
  | .read => { i with indication := .read, buffer := [], overflow := false }
  | .write => written.foldl PortInterface.receiveByte { i with indication := .write, buffer := [], overflow := false }

/-- The transaction of a port begins, and its start is reported to the measurement unit (10 R171, 01 R5). -/
def State.beginTransaction (s : State) (p : Port) (direction : Direction) (written : List Byte) : State :=
  (s.setPort p ((s.ports.get p).begun direction written)).markDisturbed

/-- TRANSACTION_START (10 R169, R171): a start condition with the port's address begins a transaction; in a
transaction it is a repeated start and ends that one first. With another address it begins none. -/
def execTransactionStart (p : Port) (address : BitVec 7) (direction : Direction) (written : List Byte)
    (s : State) : Result State :=
  match s.phase with
  | .inReset | .loading _ => .next s
  | .running =>
    match s.endTransaction p with
    | .next t => if s.acknowledgesAddress p address then .next (t.beginTransaction p direction written) else .next t
    | .fault f => .fault f
    | .refused r => .refused r

end Sys2Proof.Machine
end

