-- ==== Sys2Proof/Machine/Resets.lean ====
section
/-! DEFINITION. Resets of the three causes, their end, and the start-up load (09 section 9.3, 11 R185). -/

namespace Sys2Proof.Machine

/-- A port interface when a reset begins (10 R170). The address stands until the next load samples the strap. -/
def PortInterface.afterReset (i : PortInterface) : PortInterface :=
  { i with indication := .none, buffer := [], overflow := false, held := none }

/-- The image store when a reset begins (09 R161, R167): a store in progress is cut short, without result. -/
def ImageStore.afterReset (im : ImageStore) : ImageStore :=
  match im.store with
  | none => { im with store := none, lastResult := none }
  | some r => { im.cutShort r with store := none, lastResult := none }

/-- A reset of any cause begins (01 R21, 02 R37, 04 R71, 05 R81, R85, 06 R112, 07 R129, 08 R130, R154, 09 R159,
R161, R167, 10 R170, 11 R185, R189). The values that the end of the load sets are log 10 until then. -/
def State.beginReset (s : State) (cause : ResetCause) : State :=
  { s with
    phase := .inReset
    unit := none
    sequencer := { run := .run, number := 0, position := none, nextTick := none }
    trackers := Vector.ofFn fun _ => blankTracker .off
    terms := Vector.ofFn fun _ => blankTerm .off
    delivery :=
      { a := Delivery.closed s.delivery.a.line.released
        b := Delivery.closed s.delivery.b.line.released
        c := Delivery.closed s.delivery.c.line.released }
    fresh := []
    lease := .free
    restartDelay := none
    active := none
    epoch := 0
    images := s.images.afterReset
    status := { s.status with cause := cause, counters := .zero }
    ports := { a := s.ports.a.afterReset, b := s.ports.b.afterReset, c := s.ports.c.afterReset } }

/-- The address a strap selects: 3Ah low, 3Bh high (10 R169). -/
def strapAddress (high : Bool) : BitVec 7 := if high then 0x3B else 0x3A

/-- The start-up load begins: it lasts 2 ms, and the straps are sampled (09 R158, 10 R169). -/
def State.beginLoad (s : State) (straps : Straps) : State :=
  { s with
    phase := .loading (s.now + milliseconds 2)
    ports :=
      { a := { s.ports.a with address := strapAddress straps.a }
        b := { s.ports.b with address := strapAddress straps.b }
        c := { s.ports.c with address := strapAddress straps.c } } }

/-- POWER_RESET (11 R185). -/
def execPowerReset (s : State) : Result State := .next (s.beginReset .power)

/-- LINE_RESET (11 R185): a taking low of the reset line that begins a reset, in a reset and a load too (log 13). In a POWER
reset whose supply is not yet established the cause LINE is the model's choice (log 28). -/
def execLineReset (s : State) : Result State := .next (s.beginReset .line)

/-- RESET_END (09 R158): the reset in progress ends and the load begins; without one nothing ends. -/
def execResetEnd (straps : Straps) (s : State) : Result State :=
  match s.phase with
  | .loading _ | .running => .next s
  | .inReset => .next (s.beginLoad straps)

/-- RESTART_DELAY_EXPIRY (08 R154, 09 R158): a reset of cause RESTART, whose load begins at once. Without a
delay that runs there is no end of one. -/
def execRestartDelayExpiry (straps : Straps) (s : State) : Result State :=
  s.whileRunning fun s =>
    match s.restartDelay with
    | none => s
    | some t => ((s.advanceTo t).beginReset .restart).beginLoad straps

/-- The configuration the load places in force, and its source (09 R158). -/
def ImageStore.startUp (im : ImageStore) : Configuration × ConfigSource :=
  match im.newest with
  | none => (factoryConfiguration, .factory)
  | some (.slot0, cfg) => (cfg, .slot0)
  | some (.slot1, cfg) => (cfg, .slot1)

/-- An attention line driven inactive at a polarity (05 R85). -/
def AttentionLine.drivenAt (polarity : Polarity) : AttentionLine where
  driven := true
  active := false
  polarity := polarity
  pulseEnd := none
  overtaken := none

/-- The completion of the start-up load with a configuration and its source (09 R158, R159). -/
def State.startUp (s : State) (cfg : Configuration) (source : ConfigSource) : State :=
  { s with
    phase := .running
    active := some cfg
    epoch := 0
    status := { s.status with source := source }
    sequencer :=
      { s.sequencer with
        run := cfg.hub.startMode
        nextTick :=
          match cfg.hub.startMode with
          | .run => some (s.now + milliseconds cfg.hub.sweepPeriodMs)
          | .halted => none }
    trackers := Vector.ofFn fun n => blankTracker (startState (cfg.channels.get n))
    terms := Vector.ofFn fun k => blankTerm (termStartState (cfg.terms.get k))
    delivery :=
      { a := { s.delivery.a with line := .drivenAt cfg.ports.a.polarity }
        b := { s.delivery.b with line := .drivenAt cfg.ports.b.polarity }
        c := { s.delivery.c with line := .drivenAt cfg.ports.c.polarity } } }

/-- START_UP_LOAD_COMPLETE (09 R158, R159): without a load that runs nothing completes. -/
def execStartUpLoadComplete (s : State) : Result State :=
  match s.phase with
  | .inReset | .running => .next s
  | .loading t =>
    let s := s.advanceTo t
    .next (s.startUp s.images.startUp.1 s.images.startUp.2)

end Sys2Proof.Machine
end

