-- ==== Sys2Proof/Machine/Sweeps.lean ====
section
/-! DEFINITION. Sweep ticks, the sweep and its close, and the completion of measurements (01). -/

namespace Sys2Proof.Machine

/-- The first listed channel that is not OFF (01 R11). -/
def State.firstLive (s : State) (l : List Nat) : Option ChannelId :=
  (l.filterMap channel?).find? fun n => decide ((s.trackers.get n).state ≠ .off)

/-- The part of the scan list after a position (01 R12). -/
def listAfter (l : List Nat) (n : ChannelId) : List Nat := (l.dropWhile fun m => decide (m ≠ n.val)).tail

/-- The sweep closes: BETWEEN, no position, and the terms are evaluated (01 R14). -/
def State.closeSweep (s : State) : State :=
  (s.setSequencer { s.sequencer with position := none }).evaluateTerms

/-- The sweep takes the position found, or closes when no listed channel is left (01 R11, R12). -/
def State.placeOrClose (s : State) : Option ChannelId → State
  | some n => s.setSequencer { s.sequencer with position := some n }
  | none => s.closeSweep

/-- A sweep begins at a tick (01 R11): its number is one more, wrapping, and it seeks its first position.
A claim that appears has the arbiter consulted (01 R18). -/
def State.beginSweep (s : State) : State :=
  let s := s.setSequencer { s.sequencer with number := s.sequencer.number + 1 }
  match s.firstLive s.config.scanList with
  | some n => (s.placeOrClose (some n)).consult
  | none => s.placeOrClose none

/-- What a tick does by the run state, the sweep state and the lease (01 R10). -/
def State.tickEffect (s : State) : State :=
  match s.sequencer.run, s.sequencer.position with
  | .run, none => if s.commitWaiting then s else s.beginSweep
  | .run, some _ =>
    let c := s.status.counters
    s.setCounters { c with sweepOverruns := saturatingIncrement c.sweepOverruns }
  | .halted, _ => s

/-- SWEEP_TICK (01 R9, R10): the following tick is one sweep period later. A stopped schedule has no tick. -/
def execSweepTick (s : State) : Result State :=
  s.whileRunning fun s =>
    match s.sequencer.nextTick with
    | none => s
    | some t =>
      let s := s.advanceTo t
      (s.setSequencer { s.sequencer with nextTick := some (s.now + s.sweepPeriod) }).tickEffect

/-- The sweep sequencer acts on the end of a claim of the sweep in progress, and declines one of a sweep
that HALT abandoned (01 R12). -/
def State.sequencerActs (s : State) (claim : BitVec 32) : State :=
  match s.sequencer.position with
  | none => s
  | some n =>
    if s.sequencer.number = claim then s.placeOrClose (s.firstLive (listAfter s.config.scanList n)) else s

/-- The unit measures the channel again in the same claim (01 R6). -/
def State.repeatMeasurement (s : State) (m : Measurement) : State :=
  s.beginMeasurement m.kind m.channel .repeated

/-- Some MEASURING entry of a channel remains in the table (01 R6, 07 R120). -/
def State.someMeasuring (s : State) (n : ChannelId) : Bool :=
  s.fresh.any fun e => decide (e.channel = n) && decide (e.state = .measuring)

/-- One more disturbed skip (01 R7, R20). -/
def State.countSkip (s : State) : State :=
  let c := s.status.counters
  s.setCounters { c with disturbedSkips := saturatingIncrement c.disturbedSkips }

/-- A disturbed measurement of a quiet channel: discarded, and repeated, skipped or DISTURBED (01 R6, R7). -/
def State.disturbedEnd (s : State) (m : Measurement) : State :=
  match m.retry, m.kind with
  | .first, .sweep _ => s.repeatMeasurement m
  | .first, .fresh => if s.someMeasuring m.channel then s.repeatMeasurement m else s.endClaim
  | .repeated, .sweep claim => (s.countSkip.sequencerActs claim).endClaim
  | .repeated, .fresh => (s.completeFresh m.channel .disturbed).endClaim

/-- A measurement whose raw count is the outcome of its claim (01 R3, R12, 07 R118). -/
def State.countedEnd (s : State) (m : Measurement) (raw : Nat) : State :=
  let inRange : Bool := decide (raw ≠ 0) && decide (raw + 1 ≠ 2 ^ (s.profile m.channel).resolution)
  match m.kind with
  | .sweep claim => ((s.trackerTakes m.channel raw inRange).sequencerActs claim).endClaim
  | .fresh => (s.completeFresh m.channel (s.freshOutcome m.channel raw inRange)).endClaim

/-- MEASUREMENT_COMPLETE (01 R3, R6, R7). The measurement in progress yields a raw count of its channel's
range 0..2^resolution−1; without one in progress, or with a count outside the range, which no measurement
yields, nothing completes (log 3). -/
def execMeasurementComplete (raw : BitVec 16) (s : State) : Result State :=
  s.whileRunning fun s =>
    match s.unit with
    | none => s
    | some m =>
      if raw.toNat < 2 ^ (s.profile m.channel).resolution then
        let s := s.advanceTo m.endTime
        if (s.profile m.channel).quiet && m.disturbed then s.disturbedEnd m else s.countedEnd m raw.toNat
      else s

end Sys2Proof.Machine
end

