-- ==== Sys2Proof/Machine/Dispatch.lean ====
section
/-! DEFINITION. One arm per command: its meaning. -/

namespace Sys2Proof.Machine

/-- The effect of a command on everything but the queue. -/
def exec (i : Instr) (s : State) : Host.Outcome State Fault Refusal :=
  match i with
  | .openSession p tag channels terms classes mode threshold => Sys2Proof.Machine.execOpenSession p tag channels terms classes mode threshold s
  | .closeSession p tag => Sys2Proof.Machine.execCloseSession p tag s
  | .subscribe p tag channels terms classes => Sys2Proof.Machine.execSubscribe p tag channels terms classes s
  | .readState p tag => Sys2Proof.Machine.execReadState p tag s
  | .readTracker p tag channel => Sys2Proof.Machine.execReadTracker p tag channel s
  | .readEvents p tag count mode => Sys2Proof.Machine.execReadEvents p tag count mode s
  | .ackEvents p tag sequence => Sys2Proof.Machine.execAckEvents p tag sequence s
  | .sample p tag channel sampleTag => Sys2Proof.Machine.execSample p tag channel sampleTag s
  | .fetch p tag sampleTag => Sys2Proof.Machine.execFetch p tag sampleTag s
  | .cancel p tag sampleTag => Sys2Proof.Machine.execCancel p tag sampleTag s
  | .takeLease p tag preempt => Sys2Proof.Machine.execTakeLease p tag preempt s
  | .releaseLease p tag => Sys2Proof.Machine.execReleaseLease p tag s
  | .setChannel p tag channel profile => Sys2Proof.Machine.execSetChannel p tag channel profile s
  | .setScanlist p tag entries => Sys2Proof.Machine.execSetScanlist p tag entries s
  | .setTerm p tag term definition => Sys2Proof.Machine.execSetTerm p tag term definition s
  | .setHub p tag period startMode leaseSteps => Sys2Proof.Machine.execSetHub p tag period startMode leaseSteps s
  | .setPort p tag port rank polarity => Sys2Proof.Machine.execSetPort p tag port rank polarity s
  | .loadStaging p tag source => Sys2Proof.Machine.execLoadStaging p tag source s
  | .readStaging p tag item => Sys2Proof.Machine.execReadStaging p tag item s
  | .readConfig p tag item => Sys2Proof.Machine.execReadConfig p tag item s
  | .commit p tag => Sys2Proof.Machine.execCommit p tag s
  | .halt p tag => Sys2Proof.Machine.execHalt p tag s
  | .resume p tag => Sys2Proof.Machine.execResume p tag s
  | .store p tag => Sys2Proof.Machine.execStore p tag s
  | .restart p tag => Sys2Proof.Machine.execRestart p tag s
  | .readStatus p tag => Sys2Proof.Machine.execReadStatus p tag s
  | .clearCounters p tag => Sys2Proof.Machine.execClearCounters p tag s
  | .identify p tag => Sys2Proof.Machine.execIdentify p tag s
  | .transportRefusal p message overflow => Sys2Proof.Machine.execTransportRefusal p message overflow s
  | .transactionStart p address direction written => Sys2Proof.Machine.execTransactionStart p address direction written s
  | .transactionEnd p => Sys2Proof.Machine.execTransactionEnd p s
  | .measurementComplete raw => Sys2Proof.Machine.execMeasurementComplete raw s
  | .sweepTick => Sys2Proof.Machine.execSweepTick s
  | .commitPoint => Sys2Proof.Machine.execCommitPoint s
  | .holdLimitExpiry channel => Sys2Proof.Machine.execHoldLimitExpiry channel s
  | .discardTimerExpiry p sampleTag => Sys2Proof.Machine.execDiscardTimerExpiry p sampleTag s
  | .leaseTimerExpiry => Sys2Proof.Machine.execLeaseTimerExpiry s
  | .restartDelayExpiry straps => Sys2Proof.Machine.execRestartDelayExpiry straps s
  | .erasingEnd => Sys2Proof.Machine.execErasingEnd s
  | .programmingEnd => Sys2Proof.Machine.execProgrammingEnd s
  | .verifyingEnd generation readBack => Sys2Proof.Machine.execVerifyingEnd generation readBack s
  | .supplyLow => Sys2Proof.Machine.execSupplyLow s
  | .supplyGood => Sys2Proof.Machine.execSupplyGood s
  | .powerReset => Sys2Proof.Machine.execPowerReset s
  | .lineReset => Sys2Proof.Machine.execLineReset s
  | .resetEnd straps => Sys2Proof.Machine.execResetEnd straps s
  | .startUpLoadComplete => Sys2Proof.Machine.execStartUpLoadComplete s
  | .pulseEnd p => Sys2Proof.Machine.execPulseEnd p s

end Sys2Proof.Machine
end

