-- ==== Sys2Proof/Safety.lean ====
section
/-! DEFINITION. What the claims speak of: how a request leaves its port and the lease, and the invariants of the hub, each a
property that every step keeps. -/

namespace Sys2Proof.Machine

/-! ### The frame of a request -/

/-- The request of code, tag and parameters is what a command is, on a port (10 R173, R180). -/
def IsRequest (c : Instr) (p : Port) (code tag : Byte) : Prop :=
  requestPort c = some p ∧ (requestParts c).map (fun x => (x.1, x.2.1)) = some (code, tag)

/-- The lease record after a request taken from a port: from the holder's port in HELD the timer is
restarted with the lease time of the active configuration (08 R131). -/
def State.leaseAfter (s : State) (p : Port) : Lease :=
  match s.lease with
  | .held h staging dirty expiry =>
    .held h staging dirty (if h = p then s.now + 4000 * (100 * s.config.hub.leaseSteps) else expiry)
  | .free => .free
  | .committing h staging dirty => .committing h staging dirty

/-- The state as a request taken from a port finds it: its lease timer restarted, nothing else changed. -/
def State.took (s : State) (p : Port) : State := { s with lease := s.leaseAfter p }

/-- The state with a response held by a port, replacing the one it held, and nothing else changed (10 R176). -/
def State.holding (s : State) (p : Port) (status : StatusCode) (tag : Byte) (payload : List Byte) : State :=
  { s with ports := s.ports.set p { s.ports.get p with held := some ⟨status, tag, payload⟩ } }

/-- A port's session is open. -/
def State.isOpen (s : State) (p : Port) : Prop := ∃ se, (s.delivery.get p).session = some se

/-- The hub takes requests, and the port's session is open. -/
def State.serves (s : State) (p : Port) : Prop := s.phase = .running ∧ s.isOpen p

/-- The hub takes requests, the port's session is open, and the port holds the lease in HELD. -/
def State.holds (s : State) (p : Port) : Prop :=
  s.serves p ∧ ∃ staging dirty expiry, s.lease = .held p staging dirty expiry

/-- The state of a holder's port after a request has placed a configuration in staging: its dirty indication against the
configuration in force, the lease timer restarted, and nothing else changed (08 R131, R140). -/
def State.stagedAs (s : State) (p : Port) (written : Configuration) : State :=
  { s with
    lease := .held p written (decide (written ≠ s.config)) (s.now + 4000 * (100 * s.config.hub.leaseSteps)) }

/-! ### The delivery unit (05, 06) -/

/-- A list of entries carries the numbers from one on, in the wrapping series 1..65535, and the number after
the last of them is the other (06 R90). -/
def numbered : BitVec 16 → List Entry → BitVec 16 → Prop
  | first, [], next => first = next
  | first, e :: es, next => e.sequence = first ∧ first ≠ 0 ∧ numbered (nextSequence first) es next

/-- What the members of a lapsed set report now, in the fixed order of a drain (06 R104, R105). -/
def State.lapsedReports (s : State) (l : Lapsed) : List Report :=
  (if l.epoch then [.epoch s.epoch] else []) ++ (l.lease.map Report.lease).toList ++ (l.store.map Report.store).toList ++
  ((List.finRange 24).filter fun n => l.channels.getLsbD n.val).map
    (fun n => .resyncChannel n (s.trackers.get n).state) ++
  ((List.finRange 16).filter fun k => l.terms.getLsbD k.val).map (fun k => .resyncTerm k (s.terms.get k).state)

/-- What holds of the session, queue, lapsed set and line of a port at every moment. -/
structure Delivery.Sound (d : Delivery) : Prop where
  /-- at most 32 entries (06 R89). -/
  capacity : d.queue.length ≤ 32
  /-- a port whose lapsed set is not empty has a full queue (06 R94). -/
  lapsedFull : d.lapsed ≠ .empty → d.queue.length = 32
  /-- no UNREAD entry is older than a READ one (06 R100). -/
  readFirst : d.queue.Pairwise fun older newer => newer.read = true → older.read = true
  /-- the entries' numbers follow one another and lead to the next-sequence counter, never 0 (06 R90). -/
  sequences : d.nextSeq ≠ 0 ∧ ∃ first, numbered first d.queue d.nextSeq
  /-- a CLOSED port holds nothing and its line is inactive (05 R77; 06 R90). -/
  closed : d.session = none →
    d.queue = [] ∧ d.lapsed = .empty ∧ d.nextSeq = 1 ∧ d.appended = false ∧ d.line.active = false ∧
    d.line.pulseEnd = none ∧ d.line.overtaken = none ∧ d.reopened = none
  /-- the threshold of an open session (05 section 5.1). -/
  threshold : ∀ se, d.session = some se → 1 ≤ se.threshold ∧ se.threshold ≤ 32
  /-- in LEVEL mode there is no flag and no pulse, and the line follows the UNREAD count, but that an append which fell
  together with a re-open may have left it inactive (05 R86, R88; log 26). -/
  level : ∀ se, d.session = some se → se.mode = .level →
    se.rearm = none ∧ d.line.pulseEnd = none ∧ d.line.overtaken = none ∧
    (d.line.active = decide (se.threshold ≤ d.unread) ∨ d.reopened ≠ none ∧ d.line.active = false)
  /-- in PULSE mode the line is active during pulses, and the flag is ARMED while the UNREAD count is below the
  threshold and SPENT otherwise (05 R87). -/
  pulse : ∀ se, d.session = some se → se.mode = .pulse →
    d.line.active = d.line.pulseEnd.isSome ∧
    se.rearm = some (if d.unread < se.threshold then Rearm.armed else Rearm.spent) ∧
    (d.line.pulseEnd = none → d.line.overtaken = none)

/-- The delivery unit: each port is sound; before the load completes every session is CLOSED; a line is driven
exactly while the hub runs, at the polarity of the active configuration (05 R81, R85). -/
structure State.DeliverySound (s : State) : Prop where
  ports : ∀ p, (s.delivery.get p).Sound
  closedBefore : s.phase ≠ .running → ∀ p, (s.delivery.get p).session = none
  driven : ∀ p, (s.delivery.get p).line.driven = decide (s.phase = .running)
  polarity : ∀ cfg, s.active = some cfg → ∀ p, (s.delivery.get p).line.polarity = (cfg.ports.get p).polarity

/-! ### The fresh-sample table (07) -/

/-- The fresh-sample table (07 R113, R114; 05 R77): at most 6 entries and 2 for a port, no tag twice for a port,
no tag 0, none of a CLOSED port, and MEASURING only under the claim in progress. -/
structure State.FreshSound (s : State) : Prop where
  six : s.fresh.length ≤ 6
  two : ∀ p, (s.fresh.filter fun e => decide (e.owner = p)).length ≤ 2
  tags : s.fresh.Pairwise fun a b => ¬(a.owner = b.owner ∧ a.tag = b.tag)
  nonzero : ∀ e ∈ s.fresh, e.tag ≠ 0
  closed : ∀ p, (s.delivery.get p).session = none → ∀ e ∈ s.fresh, e.owner ≠ p
  measuring : ∀ e ∈ s.fresh, e.state = .measuring → ∃ m, s.unit = some m ∧ m.kind = .fresh ∧ m.channel = e.channel

/-! ### The configuration and the lease (08) -/

/-- What the lease record holds, against the active configuration and the sessions (08 R130, R140, R148). -/
def State.leaseSound (s : State) (cfg : Configuration) : Prop :=
  match s.lease with
  | .free => True
  | .held h staging dirty _ =>
    s.isOpen h ∧ configInRange staging = true ∧ dirty = decide (staging ≠ cfg)
  | .committing h staging dirty =>
    (∀ p, h = some p → s.isOpen p) ∧ configInRange staging = true ∧ firstViolation staging = none ∧
    dirty = true ∧ staging ≠ cfg

/-- The configuration in force is valid while the hub runs, the lease record is sound against it, the snapshot of a store in
progress is valid, and before the load completes there is neither configuration nor lease (08 R130, R150; 09 R158, R163). -/
structure State.ConfigurationSound (s : State) : Prop where
  running : s.phase = .running → ∃ cfg, s.active = some cfg ∧ configValid cfg = true ∧ s.leaseSound cfg
  before : s.phase ≠ .running → s.active = none ∧ s.lease = .free
  snapshot : ∀ r, s.images.store = some r → configValid r.snapshot = true

/-! ### The trackers (02, 03) -/

/-- A pending state (03 R42). -/
def ChannelState.isPending : ChannelState → Bool
  | .pressPending | .releasePending => true
  | .off | .seeding | .idle | .active | .fault => false

/-- A state of row 5 of 02 R23: the channel is judged against its baseline. -/
def ChannelState.isJudged : ChannelState → Bool
  | .idle | .pressPending | .active | .releasePending => true
  | .off | .seeding | .fault => false

/-- What holds of a tracker record under its profile and the run state (02 section 2.1, 03 sections 3.2, 3.4). -/
structure Tracker.Sound (t : Tracker) (f : ChannelProfile) (runState : RunState) : Prop where
  off : t.state = .off ↔ f.enabled = false
  /-- a baseline is a count that an in-range measurement can yield (02 R30). -/
  baselineRange : ∀ b, t.baseline = some b → 1 ≤ b ∧ b + 2 ≤ 2 ^ f.resolution
  baselineAbsent : t.state = .off ∨ t.state = .seeding → t.baseline = none
  baselinePresent : t.state.isJudged = true → t.baseline.isSome = true
  /-- the bucket stays inside the drift limit (02 section 2.1, R28, R29). -/
  bucket : (f.driftLimit = 0 → t.bucket = 0) ∧
    (0 < f.driftLimit → -(f.driftLimit : Int) < t.bucket ∧ t.bucket < f.driftLimit)
  /-- the debounce count is present in the pending states alone (03 R42). -/
  debounce : t.debounce.isSome = t.state.isPending
  debouncePositive : ∀ c, t.debounce = some c → 1 ≤ c
  /-- eight in a row is FAULT (02 R31). -/
  outOfRangeRun : t.outOfRangeRun ≤ 7
  /-- a channel with the reseed mark is IDLE or FAULT (02 R25). -/
  reseed : t.reseed = true → t.state = .idle ∨ t.state = .fault
  /-- an active channel has its active-since stamp (03 R43). -/
  activeSince : t.state.isActive = true → t.activeSince.isSome = true
  /-- the timer is STOPPED while the channel is inactive, RUNNING in RUN and PAUSED in HALTED alone (03 R44, R45). -/
  timerStopped : t.state.isActive = false → t.holdTimer = .stopped
  timerRunning : ∀ expiry, t.holdTimer = .running expiry → runState = .run
  timerPaused : ∀ left, t.holdTimer = .paused left → runState = .halted

/-- The trackers: sound under the active configuration, and as a reset leaves them without one (02 R37). -/
structure State.TrackersSound (s : State) : Prop where
  running : s.phase = .running ↔ s.active.isSome = true
  sound : ∀ cfg, s.active = some cfg → ∀ n, (s.trackers.get n).Sound (cfg.channels.get n) s.sequencer.run
  before : s.active = none → ∀ n, s.trackers.get n = blankTracker .off

/-! ### The terms (04) -/

/-- What holds of a term record under its definition (04 section 4.2, R58, R65). -/
structure TermRecord.Sound (r : TermRecord) (d : TermDefinition) : Prop where
  off : r.state = .off ↔ d.enabled = false
  arming : r.arming.isSome = decide (r.state = .arming)
  armingRange : ∀ c, r.arming = some c → 1 ≤ c ∧ c ≤ d.holdSweeps
  trueSince : r.trueSince.isSome = decide (r.state = .true)

/-- The terms: sound under the active configuration, and as a reset leaves them without one (04 R71). -/
structure State.TermsSound (s : State) : Prop where
  running : s.phase = .running ↔ s.active.isSome = true
  sound : ∀ cfg, s.active = some cfg → ∀ k, (s.terms.get k).Sound (cfg.terms.get k)
  before : s.active = none → ∀ k, s.terms.get k = blankTerm .off

/-! ### The arbiter and the sequencer (01) -/

/-- Nothing that may begin waits while the unit is IDLE, a position is held in RUN alone, and a hub in RUN has its
next tick; before the load completes nothing is measured and no tick comes (01 R9, R15, R18, R21). -/
structure State.ArbiterSound (s : State) : Prop where
  idle : s.unit = none → s.sequencer.position = none ∧
    (s.commitWaiting = true ∨ ∀ e ∈ s.fresh, e.state ≠ .waiting)
  position : s.sequencer.position ≠ none → s.sequencer.run = .run
  ticking : s.phase = .running → s.sequencer.run = .run → s.sequencer.nextTick ≠ none
  before : s.phase ≠ .running →
    s.unit = none ∧ s.sequencer.position = none ∧ s.sequencer.nextTick = none ∧ s.sequencer.number = 0 ∧ s.fresh = []

/-! ### The image store (09) -/

/-- The other slot. -/
def SlotId.other : SlotId → SlotId
  | .slot0 => .slot1
  | .slot1 => .slot0

/-- A store in progress has an erased check in its target, a generation in range, above that of the other slot if
that is valid, and cells as its phase leaves them; no store outlasts a reset (09 R155, R161, R163, R164). -/
structure State.StoreSound (s : State) : Prop where
  check : ∀ r, s.images.store = some r → (s.images.slot r.target).check = none
  generation : ∀ r, s.images.store = some r → 1 ≤ r.generation.toNat ∧ r.generation.toNat ≤ 4294967294
  newer : ∀ r, s.images.store = some r → ∀ cfg, (s.images.slot r.target.other).content = some cfg →
    (s.images.slot r.target.other).generation.toNat < r.generation.toNat
  erased : ∀ r, s.images.store = some r → r.phase = .programming → s.images.slot r.target = Slot.erased
  written : ∀ r, s.images.store = some r → r.phase = .verifying →
    s.images.slot r.target = { generation := r.generation, configuration := some r.snapshot, check := none }
  before : s.phase ≠ .running → s.images.store = none ∧ s.images.lastResult = none

/-! ### The port interfaces (10) -/

/-- What a port interface holds (10 R169, R171, R172): one of the two addresses, at most 41 bytes, in a write
transaction alone, and the overflow mark only over a full buffer. -/
structure PortInterface.Sound (i : PortInterface) : Prop where
  address : i.address = 0x3A ∨ i.address = 0x3B
  buffer : i.buffer.length ≤ 41
  overflow : i.overflow = true → i.buffer.length = 41
  writing : i.indication ≠ .write → i.buffer = [] ∧ i.overflow = false

/-- The port interfaces, silent before the load completes (09 R159, 10 R170). -/
structure State.PortsSound (s : State) : Prop where
  ports : ∀ p, (s.ports.get p).Sound
  before : s.phase ≠ .running → ∀ p, (s.ports.get p).indication = .none ∧ (s.ports.get p).held = none

end Sys2Proof.Machine
end

