-- ==== Sys2Proof/WellFormed.lean ====
section
/-! DEFINITION. Which commands can come about: the checks on their operands that need no state. -/

namespace Sys2Proof

/-- A command whose operands can be as they are: the lists of SET_SCANLIST and SET_TERM fit a message
of 41 bytes (10 R180); a message of TRANSPORT_REFUSAL fills at most the receive buffer, is not the empty
one that is no message (10 R172), and does fail a transport check (10 R173); a read transaction writes
nothing (10 R172). `exec` gives every command a meaning, well-formed or not. -/
def Instr.wellFormed : Instr → Bool
  | .setScanlist _ _ entries => decide (entries.length ≤ 36)
  | .setTerm _ _ _ d => decide (d.inputs.length ≤ 31)
  | .transportRefusal p message overflow =>
      decide (message.length ≤ 41) && !message.isEmpty &&
        (match decodeMessage p message overflow with
         | .error _ => true
         | .ok _ => false)
  | .transactionStart _ _ direction written => decide (direction = .write) || written.isEmpty
  | .openSession _ _ _ _ _ _ _ | .closeSession _ _ | .subscribe _ _ _ _ _ | .readState _ _
  | .readTracker _ _ _ | .readEvents _ _ _ _ | .ackEvents _ _ _ | .sample _ _ _ _ | .fetch _ _ _
  | .cancel _ _ _ | .takeLease _ _ _ | .releaseLease _ _ | .setChannel _ _ _ _
  | .setHub _ _ _ _ _ | .setPort _ _ _ _ _ | .loadStaging _ _ _ | .readStaging _ _ _
  | .readConfig _ _ _ | .commit _ _ | .halt _ _ | .resume _ _ | .store _ _ | .restart _ _
  | .readStatus _ _ | .clearCounters _ _ | .identify _ _ | .transactionEnd _ | .measurementComplete _
  | .sweepTick | .commitPoint | .holdLimitExpiry _ | .discardTimerExpiry _ _ | .leaseTimerExpiry
  | .restartDelayExpiry _ | .erasingEnd | .programmingEnd | .verifyingEnd _ _ | .supplyLow | .supplyGood
  | .powerReset | .lineReset | .resetEnd _ | .startUpLoadComplete | .pulseEnd _ => true

end Sys2Proof
end

