-- ==== Sys2Proof/Certificates/Slice0/Obligations.lean ====
section
/-! DEFINITION. The statements for the provers, one Prop each; OBLIGATIONS.json lists them with the rules they rest on. -/

open Sys2Proof Sys2Proof.Machine

/-! ### The machine -/

/-- A step takes the command at the front of the queue, with the queue's rest (the row's own queue). On an empty
queue one tick of the timebase passes: the model's choice, log 1. -/
def Obligations.StepTakesTheFrontCommand : Prop :=
  (∀ (s : State) (c : Instr) (rest : List Instr), s.pending = c :: rest → step s = exec c { s with pending := rest }) ∧
  (∀ s : State, s.pending = [] → step s = .next { s with now := s.now + 1 })

/-- Every command of every state answers a next state and leaves the queue alone; so as many steps as commands wait empty
the queue. Requests are answered in every state (10 R175). That an event which the state rules out, or one between a reset
and its load, still answers a next state, and that no other outcome is possible, is the model's choice (logs 3, 4). -/
def Obligations.EveryCommandCompletes : Prop :=
  (∀ (c : Instr) (s : State), ∃ t, exec c s = .next t ∧ t.pending = s.pending) ∧
  (∀ s : State, ∃ t : State, Sys2Proof.core.run s.pending.length s = .next t ∧ t.pending = [])

/-- From the beginning of a reset to the completion of the start-up load a port takes nothing and nothing that is timed
happens (09 R159): every command but those of resets, the load and the supply leaves the hub as it is, which is the model's
reading for commands that cannot come then (log 4). -/
def Obligations.SilentUntilLoaded : Prop :=
  ∀ (c : Instr) (s : State), s.phase ≠ .running →
    c ≠ .supplyLow → c ≠ .supplyGood → c ≠ .powerReset → c ≠ .lineReset → c ≠ .startUpLoadComplete →
    (∀ straps, c ≠ .resetEnd straps) → exec c s = .next s

/-- The session gate (05 R75, 10 R175): on a CLOSED port every request but OPEN, READ_STATUS and IDENTIFY is
answered NO_SESSION, and nothing else changes (a CLOSED port that held the lease would have its timer restarted). -/
def Obligations.SessionGate : Prop :=
  ∀ (c : Instr) (s : State) (p : Port) (code tag : Byte), IsRequest c p code tag →
    code ≠ 0x01 → code ≠ 0x40 → code ≠ 0x42 → s.phase = .running → (s.delivery.get p).session = none →
    exec c s = .next ((s.took p).holding p .noSession tag [])

/-- The lease gate (08 R139): a lease-gated request is answered NOT_HOLDER on a port that is not the holder; the
holder's are answered BUSY while the lease is COMMITTING, READ_STAGING apart. Nothing else changes. -/
def Obligations.LeaseGate : Prop :=
  ∀ (c : Instr) (s : State) (p : Port) (code tag : Byte), IsRequest c p code tag →
    code ∈ [0x21#8, 0x22#8, 0x23#8, 0x24#8, 0x25#8, 0x26#8, 0x27#8, 0x28#8, 0x2A#8, 0x2B#8, 0x2C#8, 0x30#8, 0x31#8] →
    s.serves p →
    (s.lease.holder ≠ some p → exec c s = .next (s.holding p .notHolder tag [])) ∧
    (∀ staging dirty, code ≠ 0x28 → s.lease = .committing (some p) staging dirty →
      exec c s = .next (s.holding p .busy tag [0x01, portCode p]))

/-! ### Sessions (05) -/

/-- OPEN (05 R73 to R75), on a CLOSED and on an OPEN port alike: its parameters are checked in their order; then the
session, its queue, lapsed set, counter and line are those of a new session, and the port's samples are freed. The moment of
a re-open is kept: an append that falls together with it leaves the line inactive (05 R88), and that the same tick of the
timebase is what falls together is the model's choice (logs 25, 26). -/
def Obligations.OpenSession : Prop :=
  ∀ (s : State) (p : Port) (tag : Byte) (channels : BitVec 24) (terms : BitVec 16) (classes mode threshold : Byte),
    s.phase = .running →
    (classes.toNat ≤ 3 ∧ mode.toNat ≤ 1 ∧ 1 ≤ threshold.toNat ∧ threshold.toNat ≤ 32 →
      exec (.openSession p tag channels terms classes mode threshold) s = .next
        (({ s.took p with
            delivery := s.delivery.set p
              { session := some
                  { channelMask := channels
                    termMask := terms
                    transitions := classes.getLsbD 0
                    maintenance := classes.getLsbD 1
                    mode := if mode = 0 then .level else .pulse
                    threshold := threshold.toNat
                    rearm := if mode = 0 then none else some .armed }
                queue := []
                lapsed := .empty
                nextSeq := 1
                appended := false
                line := { (s.delivery.get p).line with active := false, pulseEnd := none, overtaken := none }
                reopened := if (s.delivery.get p).session = none then none else some s.now }
            fresh := s.fresh.filter fun e => decide (e.owner ≠ p) } : State).holding p .ok tag [])) ∧
    (3 < classes.toNat ∨ 1 < mode.toNat ∨ threshold.toNat = 0 ∨ 32 < threshold.toNat →
      exec (.openSession p tag channels terms classes mode threshold) s = .next
        ((s.took p).holding p .badValue tag [if 3 < classes.toNat then 5 else if 1 < mode.toNat then 6 else 7]))

/-- CLOSE (05 R76): the port's session, queue, lapsed set and samples are gone, its line is inactive, and a lease it
holds becomes FREE in HELD and loses its holder in COMMITTING. -/
def Obligations.CloseSession : Prop :=
  ∀ (s : State) (p : Port) (tag : Byte), s.serves p →
    exec (.closeSession p tag) s = .next
      (({ s with
          delivery := s.delivery.set p
            { session := none
              queue := []
              lapsed := .empty
              nextSeq := 1
              appended := false
              line := { (s.delivery.get p).line with active := false, pulseEnd := none, overtaken := none }
              reopened := none }
          fresh := s.fresh.filter fun e => decide (e.owner ≠ p)
          lease :=
            match s.lease with
            | .free => .free
            | .held h staging dirty expiry => if h = p then .free else .held h staging dirty expiry
            | .committing h staging dirty => .committing (if h = some p then none else h) staging dirty } : State).holding
        p .ok tag [])

/-- SUBSCRIBE (05 R80): new masks, and a lapsed set pruned to them; a class mask out of range changes nothing. -/
def Obligations.Subscribe : Prop :=
  ∀ (s : State) (p : Port) (tag : Byte) (channels : BitVec 24) (terms : BitVec 16) (classes : Byte) (se : Session),
    s.phase = .running → (s.delivery.get p).session = some se →
    (classes.toNat ≤ 3 →
      exec (.subscribe p tag channels terms classes) s = .next
        (({ s.took p with
            delivery := s.delivery.set p
              { s.delivery.get p with
                session := some
                  { se with
                    channelMask := channels
                    termMask := terms
                    transitions := classes.getLsbD 0
                    maintenance := classes.getLsbD 1 }
                lapsed :=
                  { (s.delivery.get p).lapsed with
                    channels := if classes = 0 then 0 else (s.delivery.get p).lapsed.channels &&& channels
                    terms := if classes.getLsbD 0 then (s.delivery.get p).lapsed.terms &&& terms else 0 } } } : State).holding
          p .ok tag [])) ∧
    (3 < classes.toNat →
      exec (.subscribe p tag channels terms classes) s = .next ((s.took p).holding p .badValue tag [5]))

/-- READ_STATE (05 R82, 10 R182): the states of the 24 channels and the 16 terms, the epoch, the run state, the sweep
number and the last sequence, and nothing changes. -/
def Obligations.ReadState : Prop :=
  ∀ (s : State) (p : Port) (tag : Byte), s.serves p →
    exec (.readState p tag) s = .next ((s.took p).holding p .ok tag
      ((List.finRange 24).map (fun n => (s.trackers.get n).state.code) ++
       (List.finRange 16).map (fun k => (s.terms.get k).state.code) ++
       [s.epoch, if s.sequencer.run = .run then 0x00 else 0x01] ++ bytesOf32 s.sequencer.number ++
       bytesOf16
         (if (s.delivery.get p).appended then
            (if (s.delivery.get p).nextSeq = 1 then 0xFFFF else (s.delivery.get p).nextSeq - 1)
          else 0)))

/-- READ_TRACKER (05 R84, 10 R182): the whole record of the channel, its absent fields as zero and the presence byte naming
those present; a channel above 23 is answered BAD_VALUE. Nothing changes. That a remaining time, which a timer that is
RUNNING or PAUSED has, is rounded up to whole ms and is at least 1, and that a number wider than its field, which no run
reaches, is cut to it, is the model's choice (logs 11, 23). -/
def Obligations.ReadTracker : Prop :=
  ∀ (s : State) (p : Port) (tag channel : Byte), s.serves p →
    (∀ n : ChannelId, channel.toNat = n.val →
      exec (.readTracker p tag channel) s = .next ((s.took p).holding p .ok tag
        (let t := s.trackers.get n
         let d : Option Int :=
           match t.lastRaw, t.baseline with
           | some raw, some base => some ((raw : Int) - base)
           | _, _ => none
         let left : Option Nat :=
           match t.holdTimer with
           | .stopped => none
           | .running expiry => some (max 1 ((expiry - s.now + 3999) / 4000))
           | .paused ticks => some (max 1 ((ticks + 3999) / 4000))
         [channel, t.state.code,
          (if t.baseline.isSome then 0x01#8 else 0) + (if t.lastRaw.isSome then 0x02 else 0) +
          (if d.isSome then 0x04 else 0) + (if t.debounce.isSome then 0x08 else 0) +
          (if t.activeSince.isSome then 0x10 else 0) + (if left.isSome then 0x20 else 0)] ++
         bytesOf16 (BitVec.ofNat 16 (t.baseline.getD 0)) ++ bytesOf16 (BitVec.ofNat 16 (t.lastRaw.getD 0)) ++
         bytesOf32 (BitVec.ofInt 32 (d.getD 0)) ++ bytesOf16 (BitVec.ofInt 16 t.bucket) ++
         [BitVec.ofNat 8 t.lowRun, BitVec.ofNat 8 (t.debounce.getD 0), BitVec.ofNat 8 t.outOfRangeRun,
          if t.reseed then 0x01 else 0x00] ++
         bytesOf32 (t.activeSince.getD 0) ++
         [match t.holdTimer with
          | .stopped => 0x00#8
          | .running _ => 0x01
          | .paused _ => 0x02] ++
         bytesOf16 (BitVec.ofNat 16 (left.getD 0))))) ∧
    (24 ≤ channel.toNat → exec (.readTracker p tag channel) s = .next ((s.took p).holding p .badValue tag [0]))

/-- PULSE_END (05 R87): the pulse in progress ends, and nothing but the time and the port's line changes. That the command
carries the timebase to the moment at which it is due is the model's choice (log 2). -/
def Obligations.PulseEnd : Prop :=
  ∀ (s : State) (p : Port) (t : Nat), s.phase = .running → (s.delivery.get p).line.pulseEnd = some t →
    exec (.pulseEnd p) s = .next
      { s with
        now := max s.now t
        delivery := s.delivery.set p
          { s.delivery.get p with
            line := { (s.delivery.get p).line with active := false, pulseEnd := none, overtaken := none } } }

/-! ### Events and the queue (05 section 5.3, 06) -/

/-- An event offered to a port (06 R90 to R93, R110; 05 R86 to R88). On a CLOSED port nothing happens. With an empty lapsed
set and room it is appended: the next number, UNREAD, no resync mark, the stamp of the last sweep begun; in LEVEL mode the
line follows the UNREAD count, in PULSE mode the append that reaches the threshold spends an ARMED flag on a pulse of 10 µs,
which an older pulse in progress makes longer. An append that falls together with the session's re-open leaves the line
inactive. Otherwise it is folded: its member joins the lapsed set (a notice slot takes its value) and the port's lapse
counter goes up, saturating. Nothing else changes. The model's choice: the same tick of the timebase is what falls together,
the older pulse is remembered, the flag is spent without a pulse too (log 25), and of R88 and R86 the former holds at a
re-open (log 26). -/
def Obligations.OfferedEvent : Prop :=
  ∀ (s : State) (p : Port) (r : Report),
    let d := s.delivery.get p
    (d.session = none → s.offerTo p r = s) ∧
    (∀ se, d.session = some se → d.lapsed = .empty → d.queue.length < 32 →
      let reached := se.mode = .pulse ∧ d.unread + 1 = se.threshold ∧ se.rearm = some .armed
      s.offerTo p r =
        { s with
          delivery := s.delivery.set p
            { d with
              session := if reached then some { se with rearm := some .spent } else some se
              queue := d.queue ++
                [{ sequence := d.nextSeq, report := r, resync := false, stamp := s.sequencer.number.setWidth 16, read := false }]
              nextSeq := if d.nextSeq = 0xFFFF then 1 else d.nextSeq + 1
              appended := true
              line :=
                if d.reopened = some s.now then d.line
                else if se.mode = .level then { d.line with active := decide (se.threshold ≤ d.unread + 1) }
                else if reached then
                  { d.line with active := true, pulseEnd := some (s.now + 40), overtaken := d.line.pulseEnd }
                else d.line } }) ∧
    (∀ se, d.session = some se → (d.lapsed ≠ .empty ∨ 32 ≤ d.queue.length) →
      s.offerTo p r =
        { s with
          delivery := s.delivery.set p
            { d with
              lapsed :=
                match r with
                | .chPress n | .chRelease n _ _ | .chRecal n | .chFault n | .chRecover n | .resyncChannel n _ =>
                  { d.lapsed with channels := d.lapsed.channels ||| (1#24 <<< n.val) }
                | .tmTrue k | .tmFalse k _ _ | .tmBlocked k | .resyncTerm k _ =>
                  { d.lapsed with terms := d.lapsed.terms ||| (1#16 <<< k.val) }
                | .epoch _ => { d.lapsed with epoch := true }
                | .lease outcome => { d.lapsed with lease := some outcome }
                | .store result => { d.lapsed with store := some result } }
          status :=
            { s.status with
              counters :=
                { s.status.counters with
                  lapses := s.status.counters.lapses.set p
                    (if s.status.counters.lapses.get p = 0xFFFF then 0xFFFF
                     else s.status.counters.lapses.get p + 1) } } })

/-- To whom the function offerAll offers an event (05 R78, R79), which channel events, term events and EPOCH notices go
through: each port has what an offer to it alone leaves there if its session is open and either the event is a notice or its
class and its source are both marked, and is left alone otherwise; and nothing but the delivery unit and the lapse counts
changes. LEASE and STORE notices go to one port by offerTo, as the statements of their makers say; of offerAll it is stated
for them too. -/
def Obligations.EventsReachSubscribers : Prop :=
  ∀ (s : State) (r : Report),
    (∃ delivery lapses, s.offerAll r =
      { s with
        delivery := delivery
        status := { s.status with counters := { s.status.counters with lapses := lapses } } }) ∧
    ∀ p : Port,
      let concerned : Prop := ∃ se, (s.delivery.get p).session = some se ∧
        match r with
        | .chPress n | .chRelease n _ _ => se.transitions = true ∧ se.channelMask.getLsbD n.val = true
        | .chRecal n | .chFault n | .chRecover n => se.maintenance = true ∧ se.channelMask.getLsbD n.val = true
        | .tmTrue k | .tmFalse k _ _ | .tmBlocked k => se.transitions = true ∧ se.termMask.getLsbD k.val = true
        | .resyncChannel _ _ | .resyncTerm _ _ => False
        | .epoch _ | .lease _ | .store _ => True
      (concerned → (s.offerAll r).delivery.get p = (s.offerTo p r).delivery.get p ∧
        (s.offerAll r).status.counters.lapses.get p = (s.offerTo p r).status.counters.lapses.get p) ∧
      (¬concerned → (s.offerAll r).delivery.get p = s.delivery.get p ∧
        (s.offerAll r).status.counters.lapses.get p = s.status.counters.lapses.get p)

/-- READ_EVENTS (06 R96 to R99, R101, R108; 05 R86 to R88). In mode NEXT it takes up to count entries from the oldest UNREAD
one on (after the READ ones, which are the oldest), in mode FROM_OLDEST from the oldest on; those become READ, the line or
the flag follows the UNREAD count left, and the answer is the summary byte with their records, each the eight bytes of 10
R183. In PULSE mode a pulse that an append of the same moment began is not due: it is withdrawn, and an older pulse that it
made longer is in progress again; that the same tick of the timebase is the same moment is the model's choice (log 25). A
field out of range changes nothing. -/
def Obligations.ReadEvents : Prop :=
  (∀ (s : State) (p : Port) (tag count mode : Byte) (se : Session),
    s.phase = .running → (s.delivery.get p).session = some se →
    let d := s.delivery.get p
    let start := if mode = 0 then (d.queue.takeWhile fun e => e.read).length else 0
    let taken := (d.queue.drop start).take count.toNat
    let queue := d.queue.take start ++ taken.map (fun e => { e with read := true }) ++ d.queue.drop (start + count.toNat)
    let left := (queue.filter fun e => !e.read).length
    (1 ≤ count.toNat ∧ count.toNat ≤ 8 ∧ mode.toNat ≤ 1 →
      exec (.readEvents p tag count mode) s = .next
        (({ s.took p with
            delivery := s.delivery.set p
              { d with
                session := if se.mode = .pulse ∧ left < se.threshold then some { se with rearm := some .armed } else some se
                queue := queue
                line :=
                  if se.mode = .level then { d.line with active := decide (se.threshold ≤ left) }
                  else if d.line.pulseEnd = some (s.now + 40) then
                    { d.line with active := d.line.overtaken.isSome, pulseEnd := d.line.overtaken, overtaken := none }
                  else d.line } } : State).holding
          p .ok tag ((BitVec.ofNat 8 left + if d.lapsed = .empty then 0x00 else 0x80) :: taken.flatMap Entry.bytes))) ∧
    (count.toNat = 0 ∨ 8 < count.toNat →
      exec (.readEvents p tag count mode) s = .next ((s.took p).holding p .badValue tag [0])) ∧
    (1 ≤ count.toNat ∧ count.toNat ≤ 8 ∧ 1 < mode.toNat →
      exec (.readEvents p tag count mode) s = .next ((s.took p).holding p .badValue tag [1]))) ∧
  (∀ e : Entry, e.bytes =
    bytesOf16 e.sequence ++
    (let mark : Byte := if e.resync then 0x80 else 0
     match e.report with
     | .chPress n => [0x01 + mark, BitVec.ofNat 8 n.val, 0x04, 0x00]
     | .chRelease n st cause => [0x02 + mark, BitVec.ofNat 8 n.val, st.code, cause.code]
     | .chRecal n => [0x03 + mark, BitVec.ofNat 8 n.val, 0x02, 0x00]
     | .chFault n => [0x04 + mark, BitVec.ofNat 8 n.val, 0x06, 0x00]
     | .chRecover n => [0x05 + mark, BitVec.ofNat 8 n.val, 0x02, 0x00]
     | .tmTrue k => [0x11 + mark, BitVec.ofNat 8 (0x20 + k.val), 0x03, 0x00]
     | .tmFalse k st cause => [0x12 + mark, BitVec.ofNat 8 (0x20 + k.val), st.code, cause.code]
     | .tmBlocked k => [0x13 + mark, BitVec.ofNat 8 (0x20 + k.val), 0x04, 0x00]
     | .resyncChannel n st => [0x20 + mark, BitVec.ofNat 8 n.val, st.code, 0x00]
     | .resyncTerm k st => [0x20 + mark, BitVec.ofNat 8 (0x20 + k.val), st.code, 0x00]
     | .epoch number => [0x30 + mark, 0xFF, 0x00, number]
     | .lease outcome => [0x31 + mark, 0xFF, 0x00, outcome.code]
     | .store result => [0x32 + mark, 0xFF, 0x00, result.code]) ++
    bytesOf16 e.stamp)

/-- ACK_EVENTS (06 R102, R103, R106). A number no entry carries is answered BAD_SEQUENCE, one of an UNREAD entry
NOT_DELIVERED, and neither changes anything. A READ entry goes with every older one, the lapsed set is drained into the
queue left, and the answer counts both; nothing else changes. -/
def Obligations.AckEvents : Prop :=
  ∀ (s : State) (p : Port) (tag : Byte) (number : BitVec 16), s.serves p →
    let d := s.delivery.get p
    ((∀ e ∈ d.queue, e.sequence ≠ number) →
      exec (.ackEvents p tag number) s = .next ((s.took p).holding p .badSequence tag [])) ∧
    (∀ old e newer, d.queue = old ++ e :: newer → e.sequence = number → (∀ x ∈ old, x.sequence ≠ number) →
      (e.read = false → exec (.ackEvents p tag number) s = .next ((s.took p).holding p .notDelivered tag [])) ∧
      (e.read = true →
        let drained := s.drain { d with queue := newer }
        exec (.ackEvents p tag number) s = .next
          (({ s.took p with delivery := s.delivery.set p drained } : State).holding p .ok tag
            [BitVec.ofNat 8 (old.length + 1), BitVec.ofNat 8 (drained.queue.length - newer.length),
             if drained.lapsed = .empty then 0x00 else 0x01])))

/-- What the drain of a lapsed set does to the whole record of its port (06 R104, R105; 05 R86 to R88): it appends EPOCH,
LEASE, STORE, the channels and the terms in order, as many as the queue has room for, each with the resync mark, UNREAD, the
present stamp and the numbers that follow; those without room stay in the set. In LEVEL mode the line follows the count
left; in PULSE mode a drain that reaches the threshold spends an ARMED flag on a pulse. Nothing else of the record changes.
The model's choice is what log 25 says of pulses and log 26 of the moment of a re-open. -/
def Obligations.DrainOrder : Prop :=
  ∀ (s : State) (d : Delivery) (se : Session), d.session = some se → d.queue.length ≤ 32 → d.nextSeq ≠ 0 →
    let room := 32 - d.queue.length
    let t := s.drain d
    ∃ appended : List Entry,
      t.queue = d.queue ++ appended ∧
      appended.map (·.report) = (s.lapsedReports d.lapsed).take room ∧
      s.lapsedReports t.lapsed = (s.lapsedReports d.lapsed).drop room ∧
      (∀ e ∈ appended, e.resync = true ∧ e.read = false ∧ e.stamp = s.sequencer.number.setWidth 16) ∧
      numbered d.nextSeq appended t.nextSeq ∧
      ((s.lapsedReports d.lapsed).length ≤ room ↔ t.lapsed = .empty) ∧
      let unread := d.unread + appended.length
      let reached : Prop := se.mode = .pulse ∧ se.rearm = some .armed ∧ d.unread < se.threshold ∧ se.threshold ≤ unread
      t =
        { session := if reached then some { se with rearm := some .spent } else some se
          queue := d.queue ++ appended
          lapsed := t.lapsed
          nextSeq := t.nextSeq
          appended := d.appended || decide (appended ≠ [])
          line :=
            if appended = [] ∨ d.reopened = some s.now then d.line
            else if se.mode = .level then { d.line with active := decide (se.threshold ≤ unread) }
            else if reached then
              { d.line with active := true, pulseEnd := some (s.now + 40), overtaken := d.line.pulseEnd }
            else d.line
          reopened := d.reopened }

/-! ### Fresh samples (07) -/

/-- SAMPLE refused (07 R115): its fields in their order, then the four checks in theirs; nothing changes. -/
def Obligations.SampleRefused : Prop :=
  ∀ (s : State) (p : Port) (tag channel sampleTag : Byte), s.serves p →
    let refused (status : StatusCode) (payload : List Byte) : Prop :=
      exec (.sample p tag channel sampleTag) s = .next ((s.took p).holding p status tag payload)
    (24 ≤ channel.toNat → refused .badValue [0]) ∧
    (channel.toNat < 24 → sampleTag = 0 → refused .badValue [1]) ∧
    ∀ n : ChannelId, channel.toNat = n.val → sampleTag ≠ 0 →
      ((s.trackers.get n).state = .off → refused .channelOff []) ∧
      ((s.trackers.get n).state ≠ .off →
        ((∃ e ∈ s.fresh, e.owner = p ∧ e.tag = sampleTag) → refused .tagInUse []) ∧
        ((∀ e ∈ s.fresh, ¬(e.owner = p ∧ e.tag = sampleTag)) →
          (2 ≤ (s.fresh.filter fun e => decide (e.owner = p)).length → refused .portLimit []) ∧
          ((s.fresh.filter fun e => decide (e.owner = p)).length < 2 → 6 ≤ s.fresh.length → refused .tableFull [])))

/-- SAMPLE taken (07 R115, R116): a new WAITING entry, newest in the order, answered DEFERRED. Where the unit is idle, no
sweep is in progress, no commit waits and nothing else waits for the unit, its measurement begins at once under the profile
in force (01 R1, R2); where the unit measures or a commit waits, it waits. Nothing else changes. That a commit which waits
between sweeps keeps it waiting, because the commit point is a command of its own, is the model's choice (log 7). -/
def Obligations.SampleTaken : Prop :=
  ∀ (s : State) (p : Port) (tag channel sampleTag : Byte) (n : ChannelId), s.serves p →
    channel.toNat = n.val → sampleTag ≠ 0 → (s.trackers.get n).state ≠ .off →
    (∀ e ∈ s.fresh, ¬(e.owner = p ∧ e.tag = sampleTag)) →
    (s.fresh.filter fun e => decide (e.owner = p)).length < 2 → s.fresh.length < 6 →
    ((s.unit ≠ none ∨ (s.sequencer.position = none ∧ ∃ h staging dirty, s.lease = .committing h staging dirty)) →
      exec (.sample p tag channel sampleTag) s = .next
        (({ s.took p with
            fresh := s.fresh ++ [{ owner := p, tag := sampleTag, channel := n, state := .waiting }] } : State).holding
          p .deferred tag [channel, sampleTag])) ∧
    (s.unit = none → s.sequencer.position = none → (∀ h staging dirty, s.lease ≠ .committing h staging dirty) →
      (∀ e ∈ s.fresh, e.state ≠ .waiting) →
      exec (.sample p tag channel sampleTag) s = .next
        (({ s.took p with
            fresh := s.fresh ++ [{ owner := p, tag := sampleTag, channel := n, state := .measuring }]
            unit := some
              { kind := .fresh
                channel := n
                retry := .first
                disturbed := s.transactionInProgress
                endTime := s.now + (8 * (s.profile n).settleSteps + 2 ^ (s.profile n).resolution) } } : State).holding
          p .deferred tag [channel, sampleTag]))

/-- FETCH (07 R119, R121): PENDING while WAITING or MEASURING; from READY the result, and the entry is freed; without an
entry UNKNOWN_TAG. Nothing else changes. That a number wider than its field, which no run reaches, is cut to it is the
model's choice (log 23). -/
def Obligations.FetchSample : Prop :=
  ∀ (s : State) (p : Port) (tag sampleTag : Byte), s.serves p →
    let answered (payload : StatusCode × List Byte) : Prop :=
      exec (.fetch p tag sampleTag) s = .next ((s.took p).holding p payload.1 tag payload.2)
    (sampleTag = 0 → answered (.badValue, [0])) ∧
    (sampleTag ≠ 0 →
      ((∀ e ∈ s.fresh, ¬(e.owner = p ∧ e.tag = sampleTag)) → answered (.unknownTag, [])) ∧
      ∀ e, (s.fresh.find? fun e => decide (e.owner = p) && decide (e.tag = sampleTag)) = some e →
        (e.state = .waiting → answered (.pending, [0x01])) ∧
        (e.state = .measuring → answered (.pending, [0x02])) ∧
        (∀ result t, e.state = .ready result t →
          exec (.fetch p tag sampleTag) s = .next
            (({ s.took p with
                fresh := s.fresh.filter fun e => !(decide (e.owner = p) && decide (e.tag = sampleTag)) } : State).holding
              p .ok tag
              (BitVec.ofNat 8 e.channel.val ::
               match result with
               | .ok raw (some base) st =>
                 [0x01, 0x0F] ++ bytesOf16 (BitVec.ofNat 16 raw) ++ bytesOf16 (BitVec.ofNat 16 base) ++
                 bytesOf32 (BitVec.ofInt 32 ((raw : Int) - base)) ++ [st.code]
               | .ok raw none st => [0x01, 0x09] ++ bytesOf16 (BitVec.ofNat 16 raw) ++ [0, 0, 0, 0, 0, 0] ++ [st.code]
               | .disturbed => [0x02, 0, 0, 0, 0, 0, 0, 0, 0, 0, 0]
               | .channelOff => [0x03, 0, 0, 0, 0, 0, 0, 0, 0, 0, 0]
               | .outOfRange raw => [0x04, 0x01] ++ bytesOf16 (BitVec.ofNat 16 raw) ++ [0, 0, 0, 0, 0, 0, 0]))))

/-- CANCEL (07 R123) and DISCARD_TIMER_EXPIRY (07 R125). CANCEL frees the entry in whatever state, which the answer names,
and a measurement in progress runs on; the discard timer of a READY entry runs out, the entry is freed and the discard
counted. Nothing else changes. That an expiry carries the timebase to the moment at which it is due is the model's choice
(log 2). -/
def Obligations.SampleFreed : Prop :=
  (∀ (s : State) (p : Port) (tag sampleTag : Byte), s.serves p →
    (sampleTag = 0 → exec (.cancel p tag sampleTag) s = .next ((s.took p).holding p .badValue tag [0])) ∧
    (sampleTag ≠ 0 →
      ((∀ e ∈ s.fresh, ¬(e.owner = p ∧ e.tag = sampleTag)) →
        exec (.cancel p tag sampleTag) s = .next ((s.took p).holding p .unknownTag tag [])) ∧
      ∀ e, (s.fresh.find? fun e => decide (e.owner = p) && decide (e.tag = sampleTag)) = some e →
        exec (.cancel p tag sampleTag) s = .next
          (({ s.took p with
              fresh := s.fresh.filter fun e => !(decide (e.owner = p) && decide (e.tag = sampleTag)) } : State).holding
            p .ok tag
            [match e.state with
             | .waiting => 0x01
             | .measuring => 0x02
             | .ready _ _ => 0x03]))) ∧
  (∀ (s : State) (p : Port) (sampleTag : Byte) (e : FreshEntry) (result : SampleResult) (t : Nat), s.phase = .running →
    (s.fresh.find? fun e => decide (e.owner = p) && decide (e.tag = sampleTag)) = some e → e.state = .ready result t →
    exec (.discardTimerExpiry p sampleTag) s = .next
      { s with
        now := max s.now t
        fresh := s.fresh.filter fun e => !(decide (e.owner = p) && decide (e.tag = sampleTag))
        status :=
          { s.status with
            counters :=
              { s.status.counters with
                freshDiscards :=
                  if s.status.counters.freshDiscards = 0xFFFF then 0xFFFF else s.status.counters.freshDiscards + 1 } } })

/-! ### The lease (08 sections 8.1 to 8.4) -/

/-- TAKE_LEASE (08 R132): every row of its table, with what GRANTED, LEASE_BUSY and BUSY carry. A grant and a preemption
give a fresh staging copy of the configuration in force and start the timer; the port preempted is offered the notice;
nothing else changes. -/
def Obligations.TakeLease : Prop :=
  ∀ (s : State) (p : Port) (tag preempt : Byte), s.phase = .running →
    let cfg := s.config
    let expiry := s.now + 4000 * (100 * cfg.hub.leaseSteps)
    let granted (t : State) (kept lease : Byte) : Prop :=
      exec (.takeLease p tag preempt) s = .next
        (t.holding p .granted tag [portCode p, kept, lease, BitVec.ofNat 8 cfg.hub.leaseSteps, s.epoch])
    ((s.delivery.get p).session = none →
      exec (.takeLease p tag preempt) s = .next ((s.took p).holding p .noSession tag [])) ∧
    (s.isOpen p → 1 < preempt.toNat →
      exec (.takeLease p tag preempt) s = .next ((s.took p).holding p .badValue tag [0])) ∧
    (s.isOpen p → preempt.toNat ≤ 1 →
      (s.lease = .free → granted { s with lease := .held p cfg false expiry } 0x00 0x01) ∧
      (∀ staging dirty left, s.lease = .held p staging dirty left →
        granted { s with lease := .held p staging dirty expiry } 0x01 0x01) ∧
      (∀ h staging dirty left, s.lease = .held h staging dirty left → h ≠ p →
        (preempt = 1 ∧ (cfg.ports.get h).rank < (cfg.ports.get p).rank →
          granted { s.offerTo h (.lease .preempted) with lease := .held p cfg false expiry } 0x00 0x01) ∧
        (preempt = 0 ∨ (cfg.ports.get p).rank ≤ (cfg.ports.get h).rank →
          exec (.takeLease p tag preempt) s = .next
            (s.holding p .leaseBusy tag [portCode h, BitVec.ofNat 8 (cfg.ports.get h).rank]))) ∧
      (∀ staging dirty, s.lease = .committing (some p) staging dirty → granted s 0x01 0x02) ∧
      (∀ h staging dirty, s.lease = .committing h staging dirty → h ≠ some p →
        exec (.takeLease p tag preempt) s = .next (s.holding p .busy tag [0x01, holderCode h])))

/-- RELEASE_LEASE (08 R135): refused to a port that is not the holder and to the holder while COMMITTING, with nothing
changed; from the holder in HELD the lease becomes FREE, and nothing else changes, so no notice is made. CLOSE of the
holder's session in HELD leaves the lease FREE too. -/
def Obligations.ReleaseLease : Prop :=
  ∀ (s : State) (p : Port) (tag : Byte), s.serves p →
    (s.lease.holder ≠ some p → exec (.releaseLease p tag) s = .next (s.holding p .notHolder tag [])) ∧
    (∀ staging dirty, s.lease = .committing (some p) staging dirty →
      exec (.releaseLease p tag) s = .next (s.holding p .busy tag [0x01, portCode p])) ∧
    (∀ staging dirty expiry, s.lease = .held p staging dirty expiry →
      exec (.releaseLease p tag) s = .next (({ s with lease := .free } : State).holding p .ok tag []) ∧
      ∃ t, exec (.closeSession p tag) s = .next t ∧ t.lease = .free)

/-- LEASE_TIMER_EXPIRY (08 R136): in HELD the lease becomes FREE and its holder is offered EXPIRED. The timer does not run
in FREE and COMMITTING; that its expiry given then changes nothing, and that an expiry carries the timebase to the moment at
which it is due, is the model's choice (logs 3, 2). -/
def Obligations.LeaseTimerExpiry : Prop :=
  ∀ s : State, s.phase = .running →
    (∀ h staging dirty expiry, s.lease = .held h staging dirty expiry →
      exec .leaseTimerExpiry s = .next
        (({ s with now := max s.now expiry, lease := .free } : State).offerTo h (.lease .expired))) ∧
    ((∀ h staging dirty expiry, s.lease ≠ .held h staging dirty expiry) → exec .leaseTimerExpiry s = .next s)

/-- HALT, RESUME and RESTART from the holder (01 R15, R16; 03 R45, R47; 08 R154). HALT abandons the sweep and pauses the
running hold-limit timers; RESUME resumes them and starts a stopped schedule; each changes nothing in the run state it would
set. RESTART begins a delay of 5 ms unless one runs, and is BUSY during a store. The model's choice: a timer that is due is
held as 1 ms and fractions of a ms are kept (log 12), and a RESTART while both a delay and a store run is BUSY (log 27). -/
def Obligations.HaltResumeRestart : Prop :=
  ∀ (s : State) (p : Port) (tag : Byte), s.holds p →
    (s.sequencer.run = .run →
      exec (.halt p tag) s = .next
        (({ s.took p with
            sequencer := { s.sequencer with run := .halted, position := none }
            trackers := Vector.ofFn fun n =>
              { s.trackers.get n with
                holdTimer :=
                  match (s.trackers.get n).holdTimer with
                  | .running expiry => .paused (if expiry ≤ s.now then 4000 else expiry - s.now)
                  | .paused left => .paused left
                  | .stopped => .stopped } } : State).holding p .ok tag []) ∧
      exec (.resume p tag) s = .next ((s.took p).holding p .ok tag [])) ∧
    (s.sequencer.run = .halted →
      exec (.halt p tag) s = .next ((s.took p).holding p .ok tag []) ∧
      exec (.resume p tag) s = .next
        (({ s.took p with
            sequencer :=
              { s.sequencer with
                run := .run
                nextTick := some (s.sequencer.nextTick.getD (s.now + 4000 * s.config.hub.sweepPeriodMs)) }
            trackers := Vector.ofFn fun n =>
              { s.trackers.get n with
                holdTimer :=
                  match (s.trackers.get n).holdTimer with
                  | .running expiry => .running expiry
                  | .paused left => .running (s.now + left)
                  | .stopped => .stopped } } : State).holding p .ok tag [])) ∧
    (s.images.store = none →
      exec (.restart p tag) s = .next
        (({ s.took p with restartDelay := some (s.restartDelay.getD (s.now + 20000)) } : State).holding p .ok tag [])) ∧
    (s.images.store ≠ none → exec (.restart p tag) s = .next ((s.took p).holding p .busy tag [0x02, portCode p]))

/-! ### Staged changes (08 sections 8.5 to 8.8) -/

/-- SET_CHANNEL from the holder (08 R140, R141): the channel is checked, then each field in its order; the first out of
range is named and nothing changes. With every field in range the profile in staging is the one carried, whole, and the
dirty indication is recomputed; nothing else changes. -/
def Obligations.SetChannel : Prop :=
  ∀ (s : State) (p : Port) (tag channel : Byte) (f : ChannelParams) (staging : Configuration) (dirty : Bool) (expiry : Nat),
    s.serves p → s.lease = .held p staging dirty expiry →
    let fields : List (Nat × Bool) :=
      [(0, decide (channel.toNat < 24)), (1, decide (f.enabled.toNat ≤ 1)), (2, decide (2 ≤ f.settleSteps.toNat)),
       (3, decide (1 ≤ f.driveCode.toNat ∧ f.driveCode.toNat ≤ 63)),
       (4, decide (9 ≤ f.resolution.toNat ∧ f.resolution.toNat ≤ 16)), (5, decide (f.quiet.toNat ≤ 1)),
       (6, decide (1 ≤ f.touch.toNat ∧ f.touch.toNat ≤ 4095)),
       (10, decide (1 ≤ f.negativeBand.toNat ∧ f.negativeBand.toNat ≤ 4095)), (13, decide (1 ≤ f.lowRunLimit.toNat)),
       (14, decide (1 ≤ f.pressDebounce.toNat ∧ f.pressDebounce.toNat ≤ 15)),
       (15, decide (1 ≤ f.releaseDebounce.toNat ∧ f.releaseDebounce.toNat ≤ 15))]
    (∀ x, fields.find? (fun x => !x.2) = some x →
      exec (.setChannel p tag channel f) s = .next ((s.took p).holding p .badValue tag [BitVec.ofNat 8 x.1])) ∧
    (fields.find? (fun x => !x.2) = none → ∀ n : ChannelId, channel.toNat = n.val →
      let written : Configuration :=
        { staging with
          channels := setAt staging.channels n
            { enabled := decide (f.enabled = 1)
              settleSteps := f.settleSteps.toNat
              driveCode := f.driveCode.toNat
              resolution := f.resolution.toNat
              quiet := decide (f.quiet = 1)
              touch := f.touch.toNat
              hysteresis := f.hysteresis.toNat
              noiseBand := f.noiseBand.toNat
              negativeBand := f.negativeBand.toNat
              driftLimit := f.driftLimit.toNat
              lowRunLimit := f.lowRunLimit.toNat
              pressDebounce := f.pressDebounce.toNat
              releaseDebounce := f.releaseDebounce.toNat
              holdLimit := f.holdLimit.toNat } }
      exec (.setChannel p tag channel f) s = .next
        ((s.stagedAs p written).holding p .ok tag [if written = s.config then 0x00 else 0x01]))

/-- SET_TERM from the holder (04 R56; 10 R180): the term, then enabled, function, the number of inputs, each input, hold
sweeps and window, in this order. With every field in range the definition in staging is the one carried, whole. -/
def Obligations.SetTerm : Prop :=
  ∀ (s : State) (p : Port) (tag term : Byte) (d : TermParams) (staging : Configuration) (dirty : Bool) (expiry : Nat),
    s.serves p → s.lease = .held p staging dirty expiry →
    let isSource (b : Byte) : Bool := decide (b.toNat < 24 ∨ (0x20 ≤ b.toNat ∧ b.toNat < 0x30))
    let fields : List (Nat × Bool) :=
      [(0, decide (term.toNat < 16)), (1, decide (d.enabled.toNat ≤ 1)), (2, decide (d.function.toNat ≤ 3)),
       (5, decide (1 ≤ d.inputs.length ∧ d.inputs.length ≤ 4))] ++
      d.inputs.zipIdx.map (fun x => (6 + x.2, isSource x.1)) ++
      [(3, decide (d.holdSweeps.toNat ≤ 63)), (4, decide (d.window.toNat ≤ 63))]
    (∀ x, fields.find? (fun x => !x.2) = some x →
      exec (.setTerm p tag term d) s = .next ((s.took p).holding p .badValue tag [BitVec.ofNat 8 x.1])) ∧
    (fields.find? (fun x => !x.2) = none → ∀ k : TermId, term.toNat = k.val →
      let written : Configuration :=
        { staging with
          terms := setAt staging.terms k
            { enabled := decide (d.enabled = 1)
              function :=
                if d.function = 0 then .any else if d.function = 1 then .all else if d.function = 2 then .one else .none
              inputs := d.inputs.map fun b =>
                if b.toNat < 24 then .channel (Fin.ofNat 24 b.toNat) else .term (Fin.ofNat 16 (b.toNat - 0x20))
              holdSweeps := d.holdSweeps.toNat
              window := d.window.toNat } }
      exec (.setTerm p tag term d) s = .next
        ((s.stagedAs p written).holding p .ok tag [if written = s.config then 0x00 else 0x01]))

/-- SET_SCANLIST, SET_HUB and SET_PORT from the holder (08 R142, R143; 10 R179): the fields in their order, the first out
of range named; with every field in range the item in staging is the one carried, whole. -/
def Obligations.SetScanlistHubPort : Prop :=
  ∀ (s : State) (p : Port) (tag : Byte) (staging : Configuration) (dirty : Bool) (expiry : Nat),
    s.serves p → s.lease = .held p staging dirty expiry →
    let refused (c : Instr) (fields : List (Nat × Bool)) : Prop :=
      ∀ x, fields.find? (fun x => !x.2) = some x →
        exec c s = .next ((s.took p).holding p .badValue tag [BitVec.ofNat 8 x.1])
    let taken (c : Instr) (fields : List (Nat × Bool)) (written : Configuration) : Prop :=
      fields.find? (fun x => !x.2) = none →
        exec c s = .next ((s.stagedAs p written).holding p .ok tag [if written = s.config then 0x00 else 0x01])
    (∀ entries : List Byte,
      let fields := (0, decide (1 ≤ entries.length ∧ entries.length ≤ 24)) ::
        entries.zipIdx.map fun x => (1 + x.2, decide (x.1.toNat < 24))
      refused (.setScanlist p tag entries) fields ∧
      taken (.setScanlist p tag entries) fields { staging with scanList := entries.map fun b => b.toNat }) ∧
    (∀ (period : BitVec 16) (mode steps : Byte),
      let fields := [(0, decide (5 ≤ period.toNat ∧ period.toNat ≤ 500)), (2, decide (mode.toNat ≤ 1)),
        (3, decide (5 ≤ steps.toNat ∧ steps.toNat ≤ 100))]
      refused (.setHub p tag period mode steps) fields ∧
      taken (.setHub p tag period mode steps) fields
        { staging with
          hub := { sweepPeriodMs := period.toNat, startMode := if mode = 0 then .run else .halted, leaseSteps := steps.toNat } }) ∧
    (∀ port rank polarity : Byte,
      let fields := [(0, decide (port.toNat ≤ 2)), (1, decide (rank.toNat ≤ 3)), (2, decide (polarity.toNat ≤ 1))]
      refused (.setPort p tag port rank polarity) fields ∧
      taken (.setPort p tag port rank polarity) fields
        { staging with
          ports := staging.ports.set (if port = 0 then .a else if port = 1 then .b else .c)
            { rank := rank.toNat, polarity := if polarity = 0 then .activeLow else .activeHigh } })

/-- LOAD_STAGING from the holder (08 R144; 09 R156, R157), and what makes a slot valid (09 R155). Whatever the image store
holds, the valid content of a slot is a configuration exactly where the slot is not the target of a store in progress and
holds that configuration with its check, a generation in range, every field in range and no commit validation constraint
failed; the check's function is left free (log 9, DESIGN CHOICE). LOAD_STAGING takes ACTIVE, FACTORY with every value of its
tables, and the newest valid slot with its generation, slot 0 where both carry the same; NO_IMAGE without one; any other
source is refused. -/
def Obligations.LoadStaging : Prop :=
  (∀ (im : ImageStore) (id : SlotId) (cfg : Configuration),
    let slot := match id with
      | .slot0 => im.slot0
      | .slot1 => im.slot1
    im.validContent id = some cfg ↔
      (∀ r, im.store = some r → r.target ≠ id) ∧
      slot.configuration = some cfg ∧ slot.check = some (Config.crc16 slot.generation cfg) ∧
      1 ≤ slot.generation.toNat ∧ slot.generation.toNat ≤ 4294967294 ∧
      (∀ n : ChannelId,
        let f := cfg.channels.get n
        (2 ≤ f.settleSteps ∧ f.settleSteps ≤ 255) ∧ (1 ≤ f.driveCode ∧ f.driveCode ≤ 63) ∧
        (9 ≤ f.resolution ∧ f.resolution ≤ 16) ∧ (1 ≤ f.touch ∧ f.touch ≤ 4095) ∧ f.hysteresis ≤ 255 ∧ f.noiseBand ≤ 255 ∧
        (1 ≤ f.negativeBand ∧ f.negativeBand ≤ 4095) ∧ f.driftLimit ≤ 255 ∧ (1 ≤ f.lowRunLimit ∧ f.lowRunLimit ≤ 255) ∧
        (1 ≤ f.pressDebounce ∧ f.pressDebounce ≤ 15) ∧ (1 ≤ f.releaseDebounce ∧ f.releaseDebounce ≤ 15) ∧
        f.holdLimit ≤ 255) ∧
      (1 ≤ cfg.scanList.length ∧ cfg.scanList.length ≤ 24 ∧ ∀ n ∈ cfg.scanList, n ≤ 23) ∧
      (∀ k : TermId,
        let d := cfg.terms.get k
        (1 ≤ d.inputs.length ∧ d.inputs.length ≤ 4) ∧ d.holdSweeps ≤ 63 ∧ d.window ≤ 63) ∧
      (5 ≤ cfg.hub.sweepPeriodMs ∧ cfg.hub.sweepPeriodMs ≤ 500) ∧ (5 ≤ cfg.hub.leaseSteps ∧ cfg.hub.leaseSteps ≤ 100) ∧
      (∀ p : Port, (cfg.ports.get p).rank ≤ 3) ∧
      firstViolation cfg = none) ∧
  ∀ (s : State) (p : Port) (tag : Byte) (staging : Configuration) (dirty : Bool) (expiry : Nat),
    s.serves p → s.lease = .held p staging dirty expiry →
    let valid := s.images.validContent
    let loads (source : Byte) (cfg : Configuration) (slot : Byte) (generation : BitVec 32) : Prop :=
      exec (.loadStaging p tag source) s = .next
        ((s.stagedAs p cfg).holding p .ok tag
          ([source, if cfg = s.config then 0x00 else 0x01, slot] ++ bytesOf32 generation))
    let factory : Configuration :=
      { channels := Vector.ofFn fun n =>
          { enabled := decide (n.val ≤ 7), settleSteps := 20, driveCode := 16, resolution := 12, quiet := false
            touch := 100, hysteresis := 10, noiseBand := 40, negativeBand := 40, driftLimit := 64, lowRunLimit := 20
            pressDebounce := 3, releaseDebounce := 3, holdLimit := 0 }
        scanList := [0, 1, 2, 3, 4, 5, 6, 7, 8, 9, 10, 11, 12, 13, 14, 15, 16, 17, 18, 19, 20, 21, 22, 23]
        terms := Vector.ofFn fun k =>
          { enabled := false, function := .any, inputs := [.channel (Fin.ofNat 24 k.val)], holdSweeps := 0, window := 0 }
        hub := { sweepPeriodMs := 20, startMode := .run, leaseSteps := 20 }
        ports := ⟨⟨0, .activeLow⟩, ⟨0, .activeLow⟩, ⟨0, .activeLow⟩⟩ }
    loads 0x00 s.config 0xFF 0 ∧
    loads 0x02 factory 0xFF 0 ∧
    (valid .slot0 = none → valid .slot1 = none →
      exec (.loadStaging p tag 0x01) s = .next ((s.took p).holding p .noImage tag [])) ∧
    (∀ cfg, valid .slot0 = some cfg →
      (valid .slot1 = none ∨ s.images.slot1.generation.toNat ≤ s.images.slot0.generation.toNat) →
      loads 0x01 cfg 0x00 s.images.slot0.generation) ∧
    (∀ cfg, valid .slot1 = some cfg →
      (valid .slot0 = none ∨ s.images.slot0.generation.toNat < s.images.slot1.generation.toNat) →
      loads 0x01 cfg 0x01 s.images.slot1.generation) ∧
    (∀ source : Byte, 2 < source.toNat →
      exec (.loadStaging p tag source) s = .next ((s.took p).holding p .badValue tag [0]))

/-- READ_STAGING and READ_CONFIG (08 R139, R145; 10 R184): the item's content in staging with the dirty indication, in
HELD and in COMMITTING, and in the active configuration with the epoch; a byte that names no item is refused. -/
def Obligations.ReadItems : Prop :=
  ∀ (s : State) (p : Port) (tag : Byte), s.serves p →
    (∀ item : Item,
      exec (.readConfig p tag (itemCode item)) s = .next
        ((s.took p).holding p .ok tag ([itemCode item, s.epoch] ++ itemBytes s.config item)) ∧
      (∀ staging dirty expiry,
        (s.lease = .held p staging dirty expiry ∨ s.lease = .committing (some p) staging dirty) →
        exec (.readStaging p tag (itemCode item)) s = .next
          ((s.took p).holding p .ok tag ([itemCode item, if dirty then 0x01 else 0x00] ++ itemBytes staging item)))) ∧
    (∀ b : Byte, (∀ item, itemCode item ≠ b) →
      exec (.readConfig p tag b) s = .next ((s.took p).holding p .badValue tag [0]) ∧
      (s.lease.holder = some p → exec (.readStaging p tag b) s = .next ((s.took p).holding p .badValue tag [0])))

/-- What was set is read (10 R182): after a SET request answered OK, READ_STAGING of its item returns the very bytes that
it carried. -/
def Obligations.WhatWasSetIsRead : Prop :=
  ∀ (s t : State) (p : Port) (tag tag' item dirty : Byte) (c : Instr) (code : Byte) (params : List Byte), s.holds p →
    requestPort c = some p → requestParts c = some (code, tag, params) →
    (match c with
     | .setChannel _ _ channel _ => some channel
     | .setTerm _ _ term _ => some (term + 0x20)
     | .setScanlist _ _ _ => some 0x40
     | .setHub _ _ _ _ _ => some 0x41
     | .setPort _ _ port _ _ => some (port + 0x50)
     | _ => none) = some item →
    exec c s = .next t → (t.ports.get p).held = some ⟨.ok, tag, [dirty]⟩ →
    ∃ u, exec (.readStaging p tag' item) t = .next u ∧
      (u.ports.get p).held = some ⟨.ok, tag', item :: dirty :: params⟩

/-- COMMIT from the holder (08 R147): NO_CHANGE when staging is not dirty, INVALID with the first item and constraint that
fail, else ACCEPTED with the epoch to come: the lease is COMMITTING. Where the unit measures or no sweep is in progress (one
of them always holds in a run), nothing else changes: that the commit point is a command of its own is the model's choice
(log 7). -/
def Obligations.CommitRequest : Prop :=
  ∀ (s : State) (p : Port) (tag : Byte) (staging : Configuration) (dirty : Bool) (expiry : Nat),
    s.serves p → s.lease = .held p staging dirty expiry →
    (dirty = false → exec (.commit p tag) s = .next ((s.took p).holding p .noChange tag [])) ∧
    (∀ item constraint, dirty = true → firstViolation staging = some (item, constraint) →
      exec (.commit p tag) s = .next
        ((s.took p).holding p .invalid tag [itemCode item, constraintCode constraint])) ∧
    (dirty = true → firstViolation staging = none → (s.unit ≠ none ∨ s.sequencer.position = none) →
      exec (.commit p tag) s = .next
        (({ s with lease := .committing (some p) staging true } : State).holding p .accepted tag [s.epoch + 1]))

/-- The commit validation constraints (08 R146; 04 R57): a configuration passes exactly when no item fails one, and what is
reported is the first failure in the order of channels, scan list and terms and, within an item, of the table. -/
def Obligations.CommitValidation : Prop :=
  ∀ cfg : Configuration,
    let fails (item : Item) (c : Constraint) : Prop :=
      match item, c with
      | .channel n, .chHysteresis => (cfg.channels.get n).touch ≤ (cfg.channels.get n).hysteresis
      | .channel n, .chNoiseBand =>
        (cfg.channels.get n).touch < (cfg.channels.get n).noiseBand + (cfg.channels.get n).hysteresis + 1
      | .channel n, .chRange =>
        2 ^ (cfg.channels.get n).resolution < (cfg.channels.get n).touch + (cfg.channels.get n).hysteresis + 3
      | .scanList, .listLength => cfg.scanList.length = 0 ∨ 24 < cfg.scanList.length
      | .scanList, .listDuplicate => ¬cfg.scanList.Nodup
      | .scanList, .listEntry => ∃ n ∈ cfg.scanList, 24 ≤ n
      | .term k, .termInputCount =>
        (cfg.terms.get k).enabled = true ∧ ((cfg.terms.get k).inputs.length = 0 ∨ 4 < (cfg.terms.get k).inputs.length)
      | .term k, .termDuplicate => (cfg.terms.get k).enabled = true ∧ ¬(cfg.terms.get k).inputs.Nodup
      | .term k, .termOrder =>
        (cfg.terms.get k).enabled = true ∧ ∃ j : TermId, Source.term j ∈ (cfg.terms.get k).inputs ∧ k.val ≤ j.val
      | .term k, .termWindow =>
        (cfg.terms.get k).enabled = true ∧ 0 < (cfg.terms.get k).window ∧
        ((cfg.terms.get k).function ≠ .all ∨ (cfg.terms.get k).inputs.length < 2)
      | _, _ => False
    let place (item : Item) (c : Constraint) : Nat :=
      16 * (match item with
        | .channel n => n.val
        | .scanList => 24
        | .term k => 25 + k.val
        | .hub | .port _ => 41) + (constraintCode c).toNat
    (firstViolation cfg = none ↔ ∀ item c, ¬fails item c) ∧
    ∀ item c, firstViolation cfg = some (item, c) ↔
      fails item c ∧ ∀ item' c', fails item' c' → place item c ≤ place item' c'

/-- The commit point (08 R150, R151; 01 R9, R18; 02 R36; 03 R48 to R51; 04 R69, R70; 05 R85; 07 R117, R127), for the waiting
commit of an idle unit with no sweep in progress: the staging configuration is in force, the epoch one higher; each channel
and each term whose profile or definition changed is brought into line; the events are offered in their order; the schedule
restarts; the lease is settled; waiting samples of channels now OFF are READY, and the oldest of the others is measured.
Nothing else changes. That it is a command of its own, taken at whatever moment it comes, is the model's choice (log 7). -/
def Obligations.CommitPoint : Prop :=
  ∀ (s : State) (holder : Option Port) (staging : Configuration) (dirty : Bool), s.phase = .running →
    s.lease = .committing holder staging dirty → s.sequencer.position = none → s.unit = none →
    let old := s.config
    let remeasured (n : ChannelId) : Prop :=
      let f := old.channels.get n
      let g := staging.channels.get n
      ¬(f.enabled = g.enabled ∧ f.settleSteps = g.settleSteps ∧ f.driveCode = g.driveCode ∧
        f.resolution = g.resolution ∧ f.quiet = g.quiet)
    let start (n : ChannelId) : ChannelState := if (staging.channels.get n).enabled then .seeding else .off
    let startTerm (k : TermId) : TermState := if (staging.terms.get k).enabled then .false else .off
    let reports : List Report :=
      [.epoch (s.epoch + 1)] ++
      (List.finRange 24).filterMap (fun n =>
        if remeasured n ∧ ((s.trackers.get n).state = .active ∨ (s.trackers.get n).state = .releasePending)
        then some (.chRelease n (start n) .config) else none) ++
      (List.finRange 16).filterMap (fun k =>
        if old.terms.get k ≠ staging.terms.get k ∧ ((s.terms.get k).state = .true ∨ (s.terms.get k).state = .blocked)
        then some (.tmFalse k (startTerm k) .config) else none)
    let offered := reports.foldl (fun s r => s.offerAll r) s
    let offered := match holder with
      | some p => offered.offerTo p (.lease .committed)
      | none => offered
    let fresh := s.fresh.map fun e =>
      if e.state = .waiting ∧ (if remeasured e.channel then start e.channel else (s.trackers.get e.channel).state) = .off
      then { e with state := .ready .channelOff (s.now + 400000) } else e
    ∃ t, exec .commitPoint s = .next t ∧
      t.active = some staging ∧ t.epoch = s.epoch + 1 ∧
      t.lease =
        (match holder with
         | some p => .held p staging false (s.now + 4000 * (100 * staging.hub.leaseSteps))
         | none => .free) ∧
      t.sequencer = { s.sequencer with nextTick := some (s.now + 4000 * staging.hub.sweepPeriodMs) } ∧
      (∀ n,
        let r := s.trackers.get n
        let f := old.channels.get n
        let g := staging.channels.get n
        (remeasured n → t.trackers.get n =
          { state := start n, baseline := none, lastRaw := none, bucket := 0, lowRun := 0, debounce := none,
            outOfRangeRun := 0, reseed := false, activeSince := none, holdTimer := .stopped }) ∧
        (¬remeasured n → t.trackers.get n =
          { r with
            bucket := if f.driftLimit = g.driftLimit then r.bucket else 0
            holdTimer :=
              if f.holdLimit = g.holdLimit then r.holdTimer
              else if (r.state = .active ∨ r.state = .releasePending) ∧ g.holdLimit ≠ 0 then
                (if s.sequencer.run = .run then .running (s.now + 400000 * g.holdLimit)
                 else .paused (400000 * g.holdLimit))
              else .stopped })) ∧
      (∀ k,
        (old.terms.get k = staging.terms.get k → t.terms.get k = s.terms.get k) ∧
        (old.terms.get k ≠ staging.terms.get k →
          t.terms.get k = { state := startTerm k, arming := none, trueSince := none })) ∧
      (∀ p, t.delivery.get p =
        { offered.delivery.get p with
          line := { (offered.delivery.get p).line with polarity := (staging.ports.get p).polarity } }) ∧
      t.status = offered.status ∧
      ((∀ e ∈ fresh, e.state ≠ .waiting) → t.fresh = fresh ∧ t.unit = none) ∧
      (∀ e, fresh.find? (fun e => decide (e.state = .waiting)) = some e →
        t.fresh = fresh.map (fun x => if x.channel = e.channel ∧ x.state = .waiting then { x with state := .measuring } else x) ∧
        t.unit = some
          { kind := .fresh
            channel := e.channel
            retry := .first
            disturbed := s.transactionInProgress
            endTime := s.now + (8 * (staging.channels.get e.channel).settleSteps + 2 ^ (staging.channels.get e.channel).resolution) }) ∧
      t.pending = s.pending ∧ t.now = s.now ∧ t.phase = s.phase ∧ t.restartDelay = s.restartDelay ∧
      t.images = s.images ∧ t.supply = s.supply ∧ t.ports = s.ports

/-! ### The image store (09) -/

/-- STORE from the holder (09 R162, R163): BUSY, LOW_SUPPLY, GENERATION_LIMIT in this order, and else ACCEPTED with the
target slot and generation of the table; the snapshot is the configuration in force and ERASING lasts 30 ms. The newest
valid slot is never the target. The target is invalid from the acceptance on (09 R155); that its check is erased then, and
its other cells stand until the end of ERASING, is the model's choice (logs 14, 15). -/
def Obligations.StoreRequest : Prop :=
  ∀ (s : State) (p : Port) (tag : Byte), s.holds p →
    let answered (status : StatusCode) (payload : List Byte) : Prop :=
      exec (.store p tag) s = .next ((s.took p).holding p status tag payload)
    let valid := s.images.validContent
    let gen0 := s.images.slot0.generation
    let gen1 := s.images.slot1.generation
    let begins (target : SlotId) (generation : BitVec 32) : Prop :=
      exec (.store p tag) s = .next
        (({ s.took p with
            images :=
              { (match target with
                 | .slot0 => { s.images with slot0 := { s.images.slot0 with check := none } }
                 | .slot1 => { s.images with slot1 := { s.images.slot1 with check := none } }) with
                store := some
                  { phase := .erasing
                    snapshot := s.config
                    port := p
                    target := target
                    generation := generation
                    endTime := s.now + 120000 } } } : State).holding
          p .accepted tag ((match target with | .slot0 => 0x00 | .slot1 => 0x01) :: bytesOf32 generation))
    (s.images.store ≠ none → answered .busy [0x02, portCode p]) ∧
    (s.images.store = none → s.supply = .low → answered .lowSupply []) ∧
    (s.images.store = none → s.supply = .good →
      (valid .slot0 = none → valid .slot1 = none → begins .slot0 1) ∧
      (valid .slot0 ≠ none → (valid .slot1 = none ∨ gen1.toNat ≤ gen0.toNat) →
        (gen0 = 4294967294#32 → answered .generationLimit []) ∧
        (gen0 ≠ 4294967294#32 → begins .slot1 (gen0 + 1))) ∧
      (valid .slot1 ≠ none → (valid .slot0 = none ∨ gen0.toNat < gen1.toNat) →
        (gen1 = 4294967294#32 → answered .generationLimit []) ∧
        (gen1 ≠ 4294967294#32 → begins .slot0 (gen1 + 1))))

/-- ERASING_END, PROGRAMMING_END and VERIFYING_END (09 R164, R166): the phases of 25 and 5 ms follow; at the end of the last
the check is written if what is read back is the target generation and the snapshot, and the result is kept and offered to
the port that asked. The model's choice: the cells of the target are erased, then written, at the ends of their phases, and
what is read back is carried by the command (log 15); the check's function is left free (log 9); an end carries the timebase
to the moment at which it is due (log 2). -/
def Obligations.StorePhases : Prop :=
  ∀ (s : State) (r : StoreRecord), s.phase = .running → s.images.store = some r →
    let now := max s.now r.endTime
    (r.phase = .erasing → exec .erasingEnd s = .next
      { s with
        now := now
        images :=
          { s.images.setSlot r.target { generation := 0xFFFFFFFF, configuration := none, check := none } with
            store := some { r with phase := .programming, endTime := now + 100000 } } }) ∧
    (r.phase = .programming → exec .programmingEnd s = .next
      { s with
        now := now
        images :=
          { s.images.setSlot r.target { generation := r.generation, configuration := some r.snapshot, check := none } with
            store := some { r with phase := .verifying, endTime := now + 20000 } } }) ∧
    (r.phase = .verifying → ∀ generation readBack,
      let matched : Prop := generation = r.generation ∧ readBack = some r.snapshot
      let result : StoreResult := if matched then .ok else .verifyFail
      exec (.verifyingEnd generation readBack) s = .next
        (({ s with
            now := now
            images :=
              { s.images.setSlot r.target
                  { generation := generation
                    configuration := readBack
                    check := if matched then some (Config.crc16 r.generation r.snapshot) else none } with
                store := none
                lastResult := some result } } : State).offerTo r.port (.store result)))

/-- After a store with result OK its target is the newest valid slot, with its generation and its snapshot (09 R164), in
every state that meets two invariants: the record, the target's cells and the other slot are sound, and the snapshot of the
store is valid. What VERIFYING_END reads back is its operand, the model's choice (log 15). -/
def Obligations.StoredImageIsNewest : Prop :=
  ∀ (s t : State) (r : StoreRecord), s.phase = .running → s.images.store = some r → r.phase = .verifying →
    s.StoreSound → s.ConfigurationSound →
    exec (.verifyingEnd r.generation (some r.snapshot)) s = .next t →
    t.images.newest = some (r.target, r.snapshot) ∧ t.images.newestGeneration = some r.generation ∧
    t.images.startUp.1 = r.snapshot ∧ t.images.slot r.target.other = s.images.slot r.target.other

/-- SUPPLY_LOW and SUPPLY_GOOD (09 R165, R166). A change to LOW aborts a store in progress: its target keeps no check, the
result SUPPLY_FAIL is kept and offered, and the other slot is left alone; VERIFYING only reads. Nothing else changes, and
without a store only the condition. The model's choice: what an erase or a programming left in the target's other cells is
free (log 14), SUPPLY_LOW in LOW changes nothing (log 3), and both commands are taken in resets and loads too (log 17). -/
def Obligations.SupplyChanges : Prop :=
  ∀ s : State,
    exec .supplyGood s = .next { s with supply := .good } ∧
    (s.supply = .low → exec .supplyLow s = .next s) ∧
    (s.supply = .good → s.images.store = none → exec .supplyLow s = .next { s with supply := .low }) ∧
    (∀ r, s.supply = .good → s.images.store = some r →
      ∃ generation configuration,
        (r.phase = .verifying → generation = (s.images.slot r.target).generation ∧
          configuration = (s.images.slot r.target).configuration) ∧
        exec .supplyLow s = .next
          (({ s with
              supply := .low
              images :=
                { s.images.setSlot r.target { generation := generation, configuration := configuration, check := none } with
                  store := none
                  lastResult := some .supplyFail
                  cuts := s.images.cuts + 1 } } : State).offerTo r.port (.store .supplyFail)))

/-! ### The status block (11) -/

/-- READ_STATUS and IDENTIFY (11 R187, R188; 10 R182): answered OK on every port, open or not, with the 33 bytes of the
status as it stands and with the fixed identity, and nothing changes. -/
def Obligations.StatusAndIdentity : Prop :=
  ∀ (s : State) (p : Port) (tag : Byte), s.phase = .running →
    exec (.readStatus p tag) s = .next ((s.took p).holding p .ok tag
      ([match s.status.cause with
          | .power => 0x01#8
          | .line => 0x02
          | .restart => 0x03,
        match s.status.source with
          | .slot0 => 0x00#8
          | .slot1 => 0x01
          | .factory => 0x02,
        s.epoch, if s.sequencer.run = .run then 0x00 else 0x01] ++
       bytesOf32 s.sequencer.number ++
       [match s.lease with
          | .free => 0x00#8
          | .held _ _ _ _ => 0x01
          | .committing _ _ _ => 0x02,
        match s.lease with
          | .held h _ _ _ | .committing (some h) _ _ => portCode h
          | .free | .committing none _ _ => 0xFF#8,
        match s.images.store with
          | none => 0x00#8
          | some r => (match r.phase with
            | .erasing => 0x01
            | .programming => 0x02
            | .verifying => 0x03),
        match s.images.lastResult with
          | none => 0x00#8
          | some .ok => 0x01
          | some .verifyFail => 0x02
          | some .supplyFail => 0x03,
        if s.supply = .good then 0x00 else 0x01] ++
       (let c := s.status.counters
        [c.sweepOverruns, c.disturbedSkips, c.outOfRange, c.freshDiscards, c.lapses.a, c.lapses.b, c.lapses.c,
         c.checkErrors.a, c.checkErrors.b, c.checkErrors.c].flatMap bytesOf16))) ∧
    exec (.identify p tag) s = .next ((s.took p).holding p .ok tag [0x5A, 0x03, 0x24, 0x01])

/-- CLEAR_COUNTERS (11 R190): NO_SESSION on a CLOSED port; on an OPEN one, whoever holds the lease, OK with no payload, all
ten counters 0 and every other part of the hub as it stood (from the holder in HELD the lease timer is restarted). -/
def Obligations.ClearCounters : Prop :=
  ∀ (s : State) (p : Port) (tag : Byte), s.phase = .running →
    ((s.delivery.get p).session = none →
      exec (.clearCounters p tag) s = .next ((s.took p).holding p .noSession tag [])) ∧
    (s.isOpen p →
      exec (.clearCounters p tag) s = .next
        (({ s.took p with
            status :=
              { s.status with
                counters :=
                  { sweepOverruns := 0, disturbedSkips := 0, outOfRange := 0, freshDiscards := 0
                    lapses := ⟨0, 0, 0⟩, checkErrors := ⟨0, 0, 0⟩ } } } : State).holding p .ok tag []))

/-! ### The ports (10) -/

/-- The transport checks (10 R173, R174), in their order: frame, check byte, code, parameter count. A message that fails one
is answered with its status and its third byte, and nothing else changes but the check-error count for CHECK_ERROR; one that
passes all is the request of its code, tag and parameters. That a refusal given for such a message changes nothing is the
model's choice (log 3). -/
def Obligations.TransportChecks : Prop :=
  ∀ (s : State) (p : Port), s.phase = .running →
    (∀ (length : Byte) (rest : List Byte) (overflow : Bool),
      overflow = true ∨ length.toNat < 3 ∨ 40 < length.toNat ∨ rest.length ≠ length.toNat →
      exec (.transportRefusal p (length :: rest) overflow) s = .next (s.holding p .frameError (rest.getD 1 0) [])) ∧
    (∀ (code tag check : Byte) (params : List Byte), params.length ≤ 37 →
      let message := BitVec.ofNat 8 (params.length + 3) :: code :: tag :: (params ++ [check])
      let sum := (message.map BitVec.toNat).sum % 256
      let fitting : Option Nat :=
        match code.toNat with
        | 0x02 | 0x04 | 0x21 | 0x2A | 0x2B | 0x2C | 0x30 | 0x31 | 0x40 | 0x41 | 0x42 => some 0
        | 0x05 | 0x11 | 0x12 | 0x20 | 0x27 | 0x28 | 0x29 => some 1
        | 0x06 | 0x07 | 0x10 => some 2
        | 0x26 => some 3
        | 0x25 => some 4
        | 0x03 => some 6
        | 0x01 => some 8
        | 0x22 => some 17
        | 0x23 => some (1 + (params.getD 0 0).toNat)
        | 0x24 => some (6 + (params.getD 5 0).toNat)
        | _ => none
      (sum ≠ 0 →
        exec (.transportRefusal p message false) s = .next
          (({ s with
              status :=
                { s.status with
                  counters :=
                    { s.status.counters with
                      checkErrors := s.status.counters.checkErrors.set p
                        (if s.status.counters.checkErrors.get p = 0xFFFF then 0xFFFF
                         else s.status.counters.checkErrors.get p + 1) } } } : State).holding p .checkError tag [])) ∧
      (sum = 0 → fitting = none →
        exec (.transportRefusal p message false) s = .next (s.holding p .unknownRequest tag [])) ∧
      (∀ n, sum = 0 → fitting = some n → params.length ≠ n →
        exec (.transportRefusal p message false) s = .next (s.holding p .badLength tag [])) ∧
      (sum = 0 → fitting = some params.length →
        exec (.transportRefusal p message false) s = .next s ∧
        ∃ c, decodeMessage p message false = .ok c ∧ requestPort c = some p ∧
          requestParts c = some (code, tag, params)))

/-- Transactions (09 R159; 10 R169, R171, R172; 01 R5). A port acknowledges its own address while the hub runs, and no
other. A start with that address sets the indication, takes up to 41 written bytes (one more sets the overflow mark) and
marks a measurement disturbed; the next data byte of a write transaction is acknowledged exactly while fewer than 41 have
been written, and none of a read transaction is the port's to acknowledge. With another address it is none of the port's. In
a transaction it ends that one first. An end clears the indication and the buffer, and then the message of a write
transaction that wrote one is taken as its request is, or refused. The model's choice: the written bytes ride on the start
and are in the buffer at once (log 6), the indication is NONE and the buffer empty before the message is taken (log 5,
DEDUCED), an end without a transaction changes nothing (log 3), and a start inside a transaction is a repeated start,
whatever its address (log 24). -/
def Obligations.Transactions : Prop :=
  (∀ (s : State) (p : Port) (address : BitVec 7),
    s.acknowledgesAddress p address = true ↔ s.phase = .running ∧ address = (s.ports.get p).address) ∧
  ∀ (s : State) (p : Port), s.phase = .running →
    let i := s.ports.get p
    let ended : State :=
      { s with ports := s.ports.set p { i with indication := .none, buffer := [], overflow := false } }
    (∀ address direction written,
      (i.indication = .none → address = i.address →
        exec (.transactionStart p address direction written) s = .next
          { s with
            unit := s.unit.map fun m => { m with disturbed := true }
            ports := s.ports.set p
              { i with
                indication := if direction = .write then .write else .read
                buffer := if direction = .write then written.take 41 else []
                overflow := if direction = .write then decide (41 < written.length) else false } }) ∧
      (i.indication = .none → address = i.address →
        ∃ t, exec (.transactionStart p address direction written) s = .next t ∧
          ((t.ports.get p).acknowledgesByte = true ↔ direction = .write ∧ written.length < 41)) ∧
      (i.indication = .none → address ≠ i.address →
        exec (.transactionStart p address direction written) s = .next s) ∧
      (i.indication ≠ .none → ∃ t, exec (.transactionEnd p) s = .next t ∧ (t.ports.get p).indication = .none ∧
        (t.ports.get p).address = i.address ∧
        exec (.transactionStart p address direction written) s =
          exec (.transactionStart p address direction written) t)) ∧
    (i.indication = .none → exec (.transactionEnd p) s = .next s) ∧
    (i.indication = .read → exec (.transactionEnd p) s = .next ended) ∧
    (i.indication = .write → i.buffer = [] → i.overflow = false → exec (.transactionEnd p) s = .next ended) ∧
    (i.indication = .write → (i.buffer ≠ [] ∨ i.overflow = true) →
      (∀ c, decodeMessage p i.buffer i.overflow = .ok c → exec (.transactionEnd p) s = exec c ended) ∧
      (∀ e, decodeMessage p i.buffer i.overflow = .error e →
        exec (.transactionEnd p) s = exec (.transportRefusal p i.buffer i.overflow) ended))

/-- What a read transaction returns (10 R177, R181): the held response with the length, the status, the tag, the payload
and a check byte that brings the sum to 0 modulo 256, or the NO_RESPONSE message; after it, and with no read transaction
in progress, FFh. -/
def Obligations.ResponseFrame : Prop :=
  (∀ r : Response, r.payload.length ≤ 65 →
    ∃ check, r.bytes = BitVec.ofNat 8 (r.payload.length + 3) :: r.status.code :: r.tag :: (r.payload ++ [check]) ∧
      (r.bytes.map BitVec.toNat).sum % 256 = 0) ∧
  (∀ (i : PortInterface) (k : Nat),
    (i.indication = .read → ∀ r, i.held = some r → i.readByte k = r.bytes.getD k 0xFF) ∧
    (i.indication = .read → i.held = none → i.readByte k = [0x03#8, 0x24, 0x00, 0xD9].getD k 0xFF) ∧
    (i.indication ≠ .read → i.readByte k = 0xFF))

/-! ### Measurements and sweeps (01) -/

/-- What the arbiter does when it is consulted (01 R1, R2, R5, R18; 07 R117): nothing while the unit is MEASURING or a
commit waits between sweeps; else the sweep's position while a commit waits, the channel of the oldest WAITING entry, the
sweep's position, in this order. The claim begins now, disturbed if a transaction is in progress on any port, and ends after
8 ticks of 0.25 µs for each settle step and 2^resolution more; its WAITING entries join a claim of kind FRESH. That it does
nothing while a commit waits between sweeps, because the commit point is a command of its own, is the model's choice (log
7). -/
def Obligations.Arbiter : Prop :=
  ∀ s : State,
    let begins (kind : ClaimKind) (n : ChannelId) (fresh : List FreshEntry) : Prop :=
      ∃ disturbed, (disturbed = true ↔ ∃ p : Port, (s.ports.get p).indication ≠ .none) ∧
        s.consult =
          { s with
            fresh := fresh
            unit := some
              { kind := kind
                channel := n
                retry := .first
                disturbed := disturbed
                endTime := s.now + (8 * (s.config.channels.get n).settleSteps + 2 ^ (s.config.channels.get n).resolution) } }
    let waits : Prop := ∃ holder staging dirty, s.lease = .committing holder staging dirty
    (s.unit ≠ none → s.consult = s) ∧
    (s.unit = none →
      (waits → s.sequencer.position = none → s.consult = s) ∧
      (∀ n, waits → s.sequencer.position = some n → begins (.sweep s.sequencer.number) n s.fresh) ∧
      (∀ older e newer, ¬waits → s.fresh = older ++ e :: newer → (∀ x ∈ older, x.state ≠ .waiting) → e.state = .waiting →
        begins .fresh e.channel
          (s.fresh.map fun x => if x.channel = e.channel ∧ x.state = .waiting then { x with state := .measuring } else x)) ∧
      (¬waits → (∀ x ∈ s.fresh, x.state ≠ .waiting) →
        (s.sequencer.position = none → s.consult = s) ∧
        (∀ n, s.sequencer.position = some n → begins (.sweep s.sequencer.number) n s.fresh)))

/-- SWEEP_TICK (01 R9 to R11, R14, R20): the following tick is one period later. In RUN between sweeps with no commit
waiting a sweep begins: the next number, wrapping, and the first listed channel that is not OFF as its position, for which
the arbiter is consulted, or the close at once, where the terms are evaluated. A tick in a sweep is an overrun; the others
begin nothing. The model's choice: a tick without a running schedule changes nothing (log 3), a tick carries the timebase to
the moment at which it is due (log 2), and after a late tick the next comes one period after the moment it was taken (log
20). -/
def Obligations.SweepTick : Prop :=
  ∀ s : State, s.phase = .running →
    (s.sequencer.nextTick = none → exec .sweepTick s = .next s) ∧
    ∀ due, s.sequencer.nextTick = some due →
      let now := max s.now due
      let sequencer : Sequencer := { s.sequencer with nextTick := some (now + 4000 * s.config.hub.sweepPeriodMs) }
      let passed : State := { s with now := now, sequencer := sequencer }
      let waits : Prop := ∃ holder staging dirty, s.lease = .committing holder staging dirty
      let isOff (m : Nat) : Prop := ∃ n : ChannelId, n.val = m ∧ (s.trackers.get n).state = .off
      (s.sequencer.run = .halted → exec .sweepTick s = .next passed) ∧
      (s.sequencer.run = .run → s.sequencer.position ≠ none →
        exec .sweepTick s = .next
          { passed with
            status :=
              { s.status with
                counters :=
                  { s.status.counters with
                    sweepOverruns :=
                      if s.status.counters.sweepOverruns = 0xFFFF then 0xFFFF
                      else s.status.counters.sweepOverruns + 1 } } }) ∧
      (s.sequencer.run = .run → s.sequencer.position = none → waits → exec .sweepTick s = .next passed) ∧
      (s.sequencer.run = .run → s.sequencer.position = none → ¬waits →
        (∀ before (n : ChannelId) after, s.config.scanList = before ++ n.val :: after → (∀ m ∈ before, isOff m) →
          ¬isOff n.val →
          exec .sweepTick s = .next
            ({ passed with
                sequencer := { sequencer with number := s.sequencer.number + 1, position := some n } } : State).consult) ∧
        ((∀ m ∈ s.config.scanList, isOff m) →
          exec .sweepTick s = .next
            ({ passed with sequencer := { sequencer with number := s.sequencer.number + 1 } } : State).evaluateTerms))

/-- MEASUREMENT_COMPLETE of a claim of kind SWEEP (01 R3, R6, R7, R12, R13, R14, R20; 02 R23, R31). On a quiet channel a
disturbed first measurement is repeated at once and a disturbed repeat is a skip. Otherwise the count reaches the tracker,
and its event is offered. Then a claim of the sweep in progress moves the position to the next listed channel that is not
OFF, or closes the sweep, where the terms are evaluated; the unit becomes IDLE and the arbiter is consulted. That a
completion carries the timebase to the end of the claim is the model's choice (log 2), and so is that an out-of-range count
which would reach a tracker in OFF, where no run brings one, is not counted (log 19). -/
def Obligations.SweepMeasurement : Prop :=
  ∀ (s : State) (m : Measurement) (claim : BitVec 32) (raw : BitVec 16), s.phase = .running → s.unit = some m →
    m.kind = .sweep claim → raw.toNat < 2 ^ (s.config.channels.get m.channel).resolution →
    let n := m.channel
    let f := s.config.channels.get n
    let now := max s.now m.endTime
    let inRange : Prop := raw.toNat ≠ 0 ∧ raw.toNat + 1 ≠ 2 ^ f.resolution
    let disturbed : Prop := f.quiet = true ∧ m.disturbed = true
    let moved : Tracker × Option Report :=
      if inRange then (s.trackers.get n).takeInRange n f ⟨now, s.sequencer.run, s.sequencer.number⟩ raw.toNat
      else (s.trackers.get n).takeOutOfRange n
    let outcome : State :=
      if disturbed then
        { s with
          now := now
          status :=
            { s.status with
              counters :=
                { s.status.counters with
                  disturbedSkips :=
                    if s.status.counters.disturbedSkips = 0xFFFF then 0xFFFF
                    else s.status.counters.disturbedSkips + 1 } } }
      else
        let counted : State :=
          { s with
            now := now
            trackers := setAt s.trackers n moved.1
            status :=
              { s.status with
                counters :=
                  { s.status.counters with
                    outOfRange :=
                      if inRange ∨ (s.trackers.get n).state = .off ∨ s.status.counters.outOfRange = 0xFFFF then
                        s.status.counters.outOfRange
                      else s.status.counters.outOfRange + 1 } } }
        match moved.2 with
        | none => counted
        | some r => counted.offerAll r
    let ends (t : State) : Prop := exec (.measurementComplete raw) s = .next ({ t with unit := none } : State).consult
    let isOff (k : Nat) : Prop := ∃ j : ChannelId, j.val = k ∧ (outcome.trackers.get j).state = .off
    (disturbed → m.retry = .first →
      ∃ again, (again = true ↔ ∃ p : Port, (s.ports.get p).indication ≠ .none) ∧
        exec (.measurementComplete raw) s = .next
          { s with
            now := now
            unit := some
              { kind := m.kind
                channel := n
                retry := .repeated
                disturbed := again
                endTime := now + (8 * f.settleSteps + 2 ^ f.resolution) } }) ∧
    ((¬disturbed ∨ m.retry = .repeated) →
      ((s.sequencer.position = none ∨ s.sequencer.number ≠ claim) → ends outcome) ∧
      (∀ (at' : ChannelId) before after, s.sequencer.position = some at' → s.sequencer.number = claim →
        s.config.scanList = before ++ at'.val :: after → at'.val ∉ before →
        (∀ skipped (j : ChannelId) rest, after = skipped ++ j.val :: rest → (∀ k ∈ skipped, isOff k) → ¬isOff j.val →
          ends { outcome with sequencer := { s.sequencer with position := some j } }) ∧
        ((∀ k ∈ after, isOff k) →
          ends ({ outcome with sequencer := { s.sequencer with position := none } } : State).evaluateTerms)))

/-- MEASUREMENT_COMPLETE of a claim of kind FRESH (01 R3, R6, R7, R19; 07 R118, R119, R120). On a quiet channel a disturbed
first measurement is repeated at once while a MEASURING entry of it remains, and a disturbed repeat is DISTURBED. Otherwise
the count is the outcome, with the baseline and the state that the tracker holds if it is in range. The MEASURING entries of
the channel become READY, kept for 100 ms; the unit becomes IDLE and the arbiter is consulted. No tracker is touched. That a
completion carries the timebase to the end of the claim is the model's choice (log 2). -/
def Obligations.FreshMeasurement : Prop :=
  ∀ (s : State) (m : Measurement) (raw : BitVec 16), s.phase = .running → s.unit = some m → m.kind = .fresh →
    raw.toNat < 2 ^ (s.config.channels.get m.channel).resolution →
    let n := m.channel
    let f := s.config.channels.get n
    let now := max s.now m.endTime
    let disturbed : Prop := f.quiet = true ∧ m.disturbed = true
    let ends (fresh : List FreshEntry) : Prop :=
      exec (.measurementComplete raw) s = .next ({ s with now := now, unit := none, fresh := fresh } : State).consult
    let completed (result : SampleResult) : List FreshEntry :=
      s.fresh.map fun e =>
        if e.channel = n ∧ e.state = .measuring then { e with state := .ready result (now + 400000) } else e
    let remains : Prop := ∃ e ∈ s.fresh, e.channel = n ∧ e.state = .measuring
    (disturbed → m.retry = .first → remains →
      ∃ again, (again = true ↔ ∃ p : Port, (s.ports.get p).indication ≠ .none) ∧
        exec (.measurementComplete raw) s = .next
          { s with
            now := now
            unit := some
              { kind := m.kind
                channel := n
                retry := .repeated
                disturbed := again
                endTime := now + (8 * f.settleSteps + 2 ^ f.resolution) } }) ∧
    (disturbed → m.retry = .first → ¬remains → ends s.fresh) ∧
    (disturbed → m.retry = .repeated → ends (completed .disturbed)) ∧
    (¬disturbed → (raw.toNat = 0 ∨ raw.toNat + 1 = 2 ^ f.resolution) → ends (completed (.outOfRange raw.toNat))) ∧
    (¬disturbed → raw.toNat ≠ 0 → raw.toNat + 1 ≠ 2 ^ f.resolution →
      ends (completed (.ok raw.toNat (s.trackers.get n).baseline (s.trackers.get n).state)))

/-! ### Channel trackers (02, 03) -/

/-- What a sweep count does to a tracker (02 R22 to R34). Out of range: the run goes up, and the eighth in a row is FAULT. In
range: FAULT recovers, SEEDING and the reseed mark seed; else the low-run count goes up below −M and is cleared at or
above it, at K the channel recalibrates, and otherwise an IDLE one drifts by one count at most and then the state step is
taken with the measurement's own difference. -/
def Obligations.TrackerTakesACount : Prop :=
  ∀ (t : Tracker) (n : ChannelId) (f : ChannelProfile) (m : Moment),
    (t.state = .fault → t.takeOutOfRange n = (t, none)) ∧
    (t.state ≠ .off → t.state ≠ .fault → t.outOfRangeRun + 1 < 8 →
      t.takeOutOfRange n = ({ t with outOfRangeRun := t.outOfRangeRun + 1 }, none)) ∧
    (t.state ≠ .off → t.state ≠ .fault → 8 ≤ t.outOfRangeRun + 1 →
      t.takeOutOfRange n =
        ({ t with state := .fault, outOfRangeRun := 0, debounce := none, holdTimer := .stopped }, some (.chFault n))) ∧
    ∀ raw : Nat,
      let based : Tracker :=
        { t with
          state := .idle, baseline := some raw, lastRaw := some raw, bucket := 0, lowRun := 0, debounce := none
          outOfRangeRun := 0 }
      let judged : Prop := t.state = .idle ∨ t.state = .pressPending ∨ t.state = .active ∨ t.state = .releasePending
      (t.state = .fault → t.takeInRange n f m raw = ({ based with reseed := false }, some (.chRecover n))) ∧
      (t.state = .seeding → t.takeInRange n f m raw = ({ based with reseed := false }, none)) ∧
      (judged → t.reseed = true → t.takeInRange n f m raw = ({ based with reseed := false }, none)) ∧
      (∀ base, judged → t.reseed = false → t.baseline = some base →
        let d : Int := (raw : Int) - base
        let low : Prop := d < -(f.negativeBand : Int)
        (low → f.lowRunLimit ≤ t.lowRun + 1 → (t.state = .idle ∨ t.state = .pressPending) →
          t.takeInRange n f m raw = (based, some (.chRecal n))) ∧
        (low → f.lowRunLimit ≤ t.lowRun + 1 → (t.state = .active ∨ t.state = .releasePending) →
          t.takeInRange n f m raw = ({ based with holdTimer := .stopped }, some (.chRelease n .idle .recal))) ∧
        (¬(low ∧ f.lowRunLimit ≤ t.lowRun + 1) →
          let drifts : Prop := t.state = .idle ∧ 0 < f.driftLimit ∧ ¬low ∧ d ≤ f.noiseBand
          let up : Prop := drifts ∧ (f.driftLimit : Int) ≤ t.bucket + d
          let down : Prop := drifts ∧ t.bucket + d ≤ -(f.driftLimit : Int)
          t.takeInRange n f m raw =
            ({ t with
                outOfRangeRun := 0
                lastRaw := some raw
                lowRun := if low then t.lowRun + 1 else 0
                baseline := some (if up then base + 1 else if down then base - 1 else base)
                bucket := if up ∨ down then 0 else if drifts then t.bucket + d else t.bucket } : Tracker).stateStep
              n f m d))

/-- The state step (03 R39 to R44) row by row; and so a press takes P press-qualifying counts in a row from IDLE and a
release Q release-qualifying counts in a row from ACTIVE, each count taken at a moment of its own (the time, the sweep
number and the run state of its sweep), with the one event at the last of them: the active-since stamp and the hold-limit
timer are those of that last moment. That the step, which the spec does not take in OFF, SEEDING and FAULT, leaves a tracker
there as it is, is the model's choice (log 19). -/
def Obligations.StateStep : Prop :=
  ∀ (t : Tracker) (n : ChannelId) (f : ChannelProfile) (m : Moment),
    let pressing (d : Int) : Prop := (f.touch : Int) + f.hysteresis ≤ d
    let releasing (d : Int) : Prop := d ≤ (f.touch : Int) - f.hysteresis
    let pressed (m : Moment) : Tracker :=
      { t with
        state := .active
        debounce := none
        activeSince := some m.number
        holdTimer :=
          if f.holdLimit = 0 then .stopped
          else if m.run = .run then .running (m.now + 400000 * f.holdLimit) else .paused (400000 * f.holdLimit) }
    let released : Tracker := { t with state := .idle, debounce := none, holdTimer := .stopped }
    let steps (counts : List (Moment × Int)) : Tracker × List Report :=
      counts.foldl (fun x c => ((x.1.stateStep n f c.1 c.2).1, x.2 ++ (x.1.stateStep n f c.1 c.2).2.toList)) (t, [])
    ((t.state = .off ∨ t.state = .seeding ∨ t.state = .fault) → ∀ d, t.stateStep n f m d = (t, none)) ∧
    (∀ d, t.state = .idle → ¬pressing d → t.stateStep n f m d = (t, none)) ∧
    (∀ d, t.state = .active → ¬releasing d → t.stateStep n f m d = (t, none)) ∧
    (∀ d, t.state = .pressPending → ¬pressing d →
      t.stateStep n f m d = ({ t with state := .idle, debounce := none }, none)) ∧
    (∀ d, t.state = .releasePending → ¬releasing d →
      t.stateStep n f m d = ({ t with state := .active, debounce := none }, none)) ∧
    (∀ d count, t.state = .pressPending → t.debounce = some count → pressing d →
      t.stateStep n f m d =
        if f.pressDebounce ≤ count + 1 then (pressed m, some (.chPress n))
        else ({ t with debounce := some (count + 1) }, none)) ∧
    (∀ d count, t.state = .releasePending → t.debounce = some count → releasing d →
      t.stateStep n f m d =
        if f.releaseDebounce ≤ count + 1 then (released, some (.chRelease n .idle .normal))
        else ({ t with debounce := some (count + 1) }, none)) ∧
    (∀ (earlier : List (Moment × Int)) (last : Moment × Int), t.state = .idle →
      (∀ c ∈ earlier ++ [last], pressing c.2) →
      (earlier.length + 1 < f.pressDebounce →
        steps (earlier ++ [last]) = ({ t with state := .pressPending, debounce := some (earlier.length + 1) }, [])) ∧
      (earlier.length + 1 = f.pressDebounce → steps (earlier ++ [last]) = (pressed last.1, [.chPress n]))) ∧
    (∀ (earlier : List (Moment × Int)) (last : Moment × Int), t.state = .active →
      (∀ c ∈ earlier ++ [last], releasing c.2) →
      (earlier.length + 1 < f.releaseDebounce →
        steps (earlier ++ [last]) = ({ t with state := .releasePending, debounce := some (earlier.length + 1) }, [])) ∧
      (earlier.length + 1 = f.releaseDebounce → steps (earlier ++ [last]) = (released, [.chRelease n .idle .normal])))

/-- HOLD_LIMIT_EXPIRY (03 R46, R47): a RUNNING timer's expiry makes the channel IDLE with the reseed mark, and CH_RELEASE of
cause HOLD_LIMIT is offered; nothing else of the record or of the hub changes. A timer that is not RUNNING does not expire;
that its expiry given then changes nothing, and that an expiry carries the timebase to the moment at which it is due, is the
model's choice (logs 3, 2). -/
def Obligations.HoldLimitExpiry : Prop :=
  ∀ (s : State) (n : ChannelId), s.phase = .running →
    (∀ expiry, (s.trackers.get n).holdTimer = .running expiry →
      exec (.holdLimitExpiry n) s = .next
        (({ s with
            now := max s.now expiry
            trackers := setAt s.trackers n
              { s.trackers.get n with state := .idle, debounce := none, reseed := true, holdTimer := .stopped } } : State).offerAll
          (.chRelease n .idle .holdLimit))) ∧
    ((∀ expiry, (s.trackers.get n).holdTimer ≠ .running expiry) → exec (.holdLimitExpiry n) s = .next s)

/-! ### Terms (04) -/

/-- Term evaluation at a close (04 R59 to R66): the terms in order, each enabled one by one step over the inputs that are
active then, with the current sweep number as its clock: the function by the number of them, the window by the ages of their
stamps, the table of states with its events offered as they are made. A disabled term is passed over. That an active input
without its stamp, which no run reaches, counts as stamp 0 is the model's choice (log 19). -/
def Obligations.TermEvaluation : Prop :=
  (∀ s : State, s.evaluateTerms = (List.finRange 16).foldl State.evaluateTerm s) ∧
  ∀ (s : State) (k : TermId),
    let d := s.config.terms.get k
    let r := s.terms.get k
    let number := s.sequencer.number
    let stamps : List (BitVec 32) := d.inputs.filterMap fun source =>
      match source with
      | .channel n =>
        if (s.trackers.get n).state = .active ∨ (s.trackers.get n).state = .releasePending
        then some ((s.trackers.get n).activeSince.getD 0) else none
      | .term j => if (s.terms.get j).state = .true then some ((s.terms.get j).trueSince.getD 0) else none
    let satisfied : Prop :=
      match d.function with
      | .any => 1 ≤ stamps.length
      | .all => stamps.length = d.inputs.length
      | .one => stamps.length = 1
      | .none => stamps.length = 0
    let inWindow : Prop := d.window = 0 ∨
      ∀ x ∈ stamps, ∀ y ∈ stamps, (number - x).toNat ≤ (number - y).toNat + d.window
    let becomes (r' : TermRecord) (event : Option Report) : Prop :=
      s.evaluateTerm k =
        match event with
        | none => { s with terms := setAt s.terms k r' }
        | some e => ({ s with terms := setAt s.terms k r' } : State).offerAll e
    let turnsTrue : Prop := becomes { state := .true, arming := none, trueSince := some number } (some (.tmTrue k))
    (d.enabled = false → s.evaluateTerm k = s) ∧
    (d.enabled = true →
      (r.state = .false →
        (¬satisfied → becomes r none) ∧
        (satisfied → ¬inWindow → becomes { r with state := .blocked } (some (.tmBlocked k))) ∧
        (satisfied → inWindow → d.holdSweeps = 0 → turnsTrue) ∧
        (satisfied → inWindow → 1 ≤ d.holdSweeps → becomes { r with state := .arming, arming := some 1 } none)) ∧
      (∀ count, r.state = .arming → r.arming = some count →
        (¬satisfied → becomes { r with state := .false, arming := none } none) ∧
        (satisfied → count + 1 = d.holdSweeps + 1 → turnsTrue) ∧
        (satisfied → count + 1 ≠ d.holdSweeps + 1 → becomes { r with arming := some (count + 1) } none)) ∧
      (r.state = .true →
        (satisfied → becomes r none) ∧
        (¬satisfied → becomes { r with state := .false, trueSince := none } (some (.tmFalse k .false .normal)))) ∧
      (r.state = .blocked →
        (stamps ≠ [] → becomes r none) ∧
        (stamps = [] → becomes { r with state := .false } (some (.tmFalse k .false .unblock)))))

/-! ### Resets and the start-up load (09, 11) -/

/-- POWER_RESET and LINE_RESET, in every state (11 R185, R189; 01 R4, R21; 02 R37; 04 R71; 05 R77, R81, R85; 06 R112; 07
R129; 08 R130, R154; 09 R159, R161, R167; 10 R170): the cause is the reset's own and every counter 0; each block holds its
values after reset; the slots stand but for the target of a store that is cut short, which is invalid. Each taking low of
the line that is a command is a LINE reset, in a reset and a load too (log 13, DEDUCED), also before the supply of a POWER
reset is established, which the model does not tell apart (log 28, DESIGN CHOICE). The model's choice, until the load's
completion: trackers and terms OFF, run state RUN and epoch 0, the configuration source, the addresses and the polarities
standing as they were (log 10); the supply condition kept through the reset (log 17); the cut target without a check, its
other cells free (log 14). -/
def Obligations.ResetBegins : Prop :=
  ∀ s : State, ∃ t, exec .powerReset s = .next t ∧
    exec .lineReset s = .next { t with status := { t.status with cause := .line } } ∧
    t.phase = .inReset ∧ t.status = { s.status with cause := .power, counters := .zero } ∧
    t.unit = none ∧ t.sequencer = { run := .run, number := 0, position := none, nextTick := none } ∧
    (∀ n, t.trackers.get n = blankTracker .off) ∧ (∀ k, t.terms.get k = blankTerm .off) ∧
    (∀ p, t.delivery.get p =
      { session := none
        queue := []
        lapsed := .empty
        nextSeq := 1
        appended := false
        line :=
          { driven := false, active := false, polarity := (s.delivery.get p).line.polarity, pulseEnd := none
            overtaken := none }
        reopened := none }) ∧
    t.fresh = [] ∧ t.lease = .free ∧ t.restartDelay = none ∧ t.active = none ∧ t.epoch = 0 ∧
    t.images.store = none ∧ t.images.lastResult = none ∧
    (s.images.store = none → ∀ id, t.images.slot id = s.images.slot id) ∧
    (∀ r, s.images.store = some r →
      (t.images.slot r.target).check = none ∧ t.images.slot r.target.other = s.images.slot r.target.other) ∧
    (∀ p, t.ports.get p =
      { address := (s.ports.get p).address, indication := .none, buffer := [], overflow := false, held := none }) ∧
    t.supply = s.supply ∧ t.now = s.now ∧ t.pending = s.pending

/-- RESET_END, RESTART_DELAY_EXPIRY and START_UP_LOAD_COMPLETE (09 R156, R158, R159; 08 R154; 10 R169; 01 R9, R17; 02 R37;
04 R71; 05 R85; 11 R186). The end of a reset begins the load of 2 ms with the addresses that the straps select; a restart
delay's expiry is a reset of cause RESTART whose load begins at once. At the load's completion the newest valid slot's
configuration, or the factory's, is in force with epoch 0, and every channel, term, line and the schedule start by it. The
model's choice: where there is no reset, delay or load to end, nothing changes (log 3); the straps are operands of what
begins the load (log 16); an end carries the timebase to the moment at which it is due (log 2). -/
def Obligations.LoadCompletes : Prop :=
  ∀ s : State,
    (∀ straps : Straps,
      (s.phase = .inReset →
        ∃ t, exec (.resetEnd straps) s = .next t ∧
          t = { s with phase := .loading (s.now + 8000), ports := t.ports } ∧
          ∀ p, t.ports.get p = { s.ports.get p with address := if straps.get p = true then 0x3B else 0x3A }) ∧
      (s.phase ≠ .inReset → exec (.resetEnd straps) s = .next s) ∧
      (∀ expiry, s.phase = .running → s.restartDelay = some expiry →
        ∃ t u, exec .powerReset { s with now := max s.now expiry } = .next t ∧
          exec (.resetEnd straps) { t with status := { t.status with cause := .restart } } = .next u ∧
          exec (.restartDelayExpiry straps) s = .next u) ∧
      (s.restartDelay = none → exec (.restartDelayExpiry straps) s = .next s)) ∧
    ((∀ due, s.phase ≠ .loading due) → exec .startUpLoadComplete s = .next s) ∧
    (∀ due, s.phase = .loading due →
      let valid := s.images.validContent
      let gen0 := s.images.slot0.generation.toNat
      let gen1 := s.images.slot1.generation.toNat
      ∃ t cfg source, exec .startUpLoadComplete s = .next t ∧
        ((valid .slot0 = none ∧ valid .slot1 = none ∧ cfg = factoryConfiguration ∧ source = .factory) ∨
         (valid .slot0 = some cfg ∧ (valid .slot1 = none ∨ gen1 ≤ gen0) ∧ source = .slot0) ∨
         (valid .slot1 = some cfg ∧ (valid .slot0 = none ∨ gen0 < gen1) ∧ source = .slot1)) ∧
        t.phase = .running ∧ t.active = some cfg ∧ t.epoch = 0 ∧ t.now = max s.now due ∧
        t.status = { s.status with source := source } ∧
        t.sequencer =
          { s.sequencer with
            run := cfg.hub.startMode
            nextTick :=
              if cfg.hub.startMode = .run then some (max s.now due + 4000 * cfg.hub.sweepPeriodMs) else none } ∧
        (∀ n, t.trackers.get n = blankTracker (if (cfg.channels.get n).enabled then .seeding else .off)) ∧
        (∀ k, t.terms.get k = blankTerm (if (cfg.terms.get k).enabled then .false else .off)) ∧
        (∀ p, t.delivery.get p =
          { s.delivery.get p with
            line :=
              { driven := true, active := false, polarity := (cfg.ports.get p).polarity, pulseEnd := none
                overtaken := none } }) ∧
        t.unit = s.unit ∧ t.fresh = s.fresh ∧ t.lease = s.lease ∧ t.restartDelay = s.restartDelay ∧
        t.images = s.images ∧ t.supply = s.supply ∧ t.ports = s.ports ∧ t.pending = s.pending)

/-! ### Encoding (10) -/

/-- Messages and requests agree (10 R173, R179, R180, R184): the message of a well-formed request fits a receive buffer and
is taken as that request with every parameter at its value; and a message taken as a request is the message of that request,
so no two messages are one request. That the count bytes of SET_SCANLIST and SET_TERM are the lengths of their lists is the
model's reading (log 5, DEDUCED). -/
def Obligations.MessageRoundTrip : Prop :=
  (∀ (c : Instr) (p : Port), requestPort c = some p → c.wellFormed = true →
    ∃ message, encodeMessage c = some message ∧ message.length ≤ 41 ∧ decodeMessage p message false = .ok c) ∧
  (∀ (p : Port) (message : List Byte) (overflow : Bool) (c : Instr), decodeMessage p message overflow = .ok c →
    requestPort c = some p ∧ c.wellFormed = true ∧ encodeMessage c = some message)

/-- The code tables (10 R184; 10 R179 for the ports): each request, status, sample status, event kind, cause, outcome,
result, state, item, constraint and other value has the code of its table, and a command that is no request has no request
code. -/
def Obligations.CodeTables : Prop :=
  (∀ c : Instr, (requestParts c).map (·.1) =
    match c with
    | .openSession .. => some 0x01 | .closeSession .. => some 0x02 | .subscribe .. => some 0x03
    | .readState .. => some 0x04 | .readTracker .. => some 0x05 | .readEvents .. => some 0x06
    | .ackEvents .. => some 0x07 | .sample .. => some 0x10 | .fetch .. => some 0x11 | .cancel .. => some 0x12
    | .takeLease .. => some 0x20 | .releaseLease .. => some 0x21 | .setChannel .. => some 0x22
    | .setScanlist .. => some 0x23 | .setTerm .. => some 0x24 | .setHub .. => some 0x25 | .setPort .. => some 0x26
    | .loadStaging .. => some 0x27 | .readStaging .. => some 0x28 | .readConfig .. => some 0x29
    | .commit .. => some 0x2A | .halt .. => some 0x2B | .resume .. => some 0x2C | .store .. => some 0x30
    | .restart .. => some 0x31 | .readStatus .. => some 0x40 | .clearCounters .. => some 0x41
    | .identify .. => some 0x42 | _ => none) ∧
  (∀ status : StatusCode, status.code =
    match status with
    | .ok => 0x00 | .deferred => 0x01 | .pending => 0x02 | .accepted => 0x03 | .granted => 0x04 | .noChange => 0x05
    | .noSession => 0x10 | .notHolder => 0x11 | .leaseBusy => 0x12 | .busy => 0x13 | .badValue => 0x14
    | .invalid => 0x15 | .channelOff => 0x16 | .tagInUse => 0x17 | .portLimit => 0x18 | .tableFull => 0x19
    | .unknownTag => 0x1A | .badSequence => 0x1B | .notDelivered => 0x1C | .noImage => 0x1D | .lowSupply => 0x1E
    | .generationLimit => 0x1F | .checkError => 0x20 | .frameError => 0x21 | .badLength => 0x22
    | .unknownRequest => 0x23 | .noResponse => 0x24) ∧
  (∀ r : Report, r.kindCode =
    match r with
    | .chPress .. => 0x01 | .chRelease .. => 0x02 | .chRecal .. => 0x03 | .chFault .. => 0x04 | .chRecover .. => 0x05
    | .tmTrue .. => 0x11 | .tmFalse .. => 0x12 | .tmBlocked .. => 0x13 | .resyncChannel .. | .resyncTerm .. => 0x20
    | .epoch .. => 0x30 | .lease .. => 0x31 | .store .. => 0x32) ∧
  (∀ sample : SampleResult, sample.statusCode =
    match sample with
    | .ok .. => 0x01 | .disturbed => 0x02 | .channelOff => 0x03 | .outOfRange .. => 0x04) ∧
  (Cause.normal.code = 0x01 ∧ Cause.holdLimit.code = 0x02 ∧ Cause.recal.code = 0x03 ∧ Cause.config.code = 0x04 ∧
    Cause.unblock.code = 0x05) ∧
  (LeaseOutcome.preempted.code = 0x01 ∧ LeaseOutcome.expired.code = 0x02 ∧ LeaseOutcome.committed.code = 0x03) ∧
  (StoreResult.ok.code = 0x01 ∧ StoreResult.verifyFail.code = 0x02 ∧ StoreResult.supplyFail.code = 0x03) ∧
  (∀ state : ChannelState, state.code =
    match state with
    | .off => 0x00 | .seeding => 0x01 | .idle => 0x02 | .pressPending => 0x03 | .active => 0x04
    | .releasePending => 0x05 | .fault => 0x06) ∧
  (∀ state : TermState, state.code =
    match state with
    | .off => 0x00 | .false => 0x01 | .arming => 0x02 | .true => 0x03 | .blocked => 0x04) ∧
  (∀ lease : Lease, lease.code =
    match lease with
    | .free => 0x00 | .held .. => 0x01 | .committing .. => 0x02) ∧
  (storeStateCode none = 0x00 ∧ ∀ r : StoreRecord, storeStateCode (some r) =
    match r.phase with
    | .erasing => 0x01 | .programming => 0x02 | .verifying => 0x03) ∧
  (runStateCode .run = 0x00 ∧ runStateCode .halted = 0x01) ∧
  (∀ timer : HoldTimer, timer.code =
    match timer with
    | .stopped => 0x00 | .running .. => 0x01 | .paused .. => 0x02) ∧
  (∀ item : Item, itemCode item =
    match item with
    | .channel n => BitVec.ofNat 8 n.val | .term k => BitVec.ofNat 8 (0x20 + k.val) | .scanList => 0x40 | .hub => 0x41
    | .port .a => 0x50 | .port .b => 0x51 | .port .c => 0x52) ∧
  (∀ constraint : Constraint, constraintCode constraint =
    match constraint with
    | .chHysteresis => 0x01 | .chNoiseBand => 0x02 | .chRange => 0x03 | .listLength => 0x04 | .listDuplicate => 0x05
    | .listEntry => 0x06 | .termInputCount => 0x07 | .termDuplicate => 0x08 | .termOrder => 0x09 | .termWindow => 0x0A) ∧
  (attentionMode? 0x00 = some .level ∧ attentionMode? 0x01 = some .pulse ∧
    polarityCode .activeLow = 0x00 ∧ polarityCode .activeHigh = 0x01 ∧
    readMode? 0x00 = some .next ∧ readMode? 0x01 = some .fromOldest ∧
    functionCode .any = 0x00 ∧ functionCode .all = 0x01 ∧ functionCode .one = 0x02 ∧ functionCode .none = 0x03 ∧
    StagingSource.active.code = 0x00 ∧ StagingSource.image.code = 0x01 ∧ StagingSource.factory.code = 0x02) ∧
  (ResetCause.power.code = 0x01 ∧ ResetCause.line.code = 0x02 ∧ ResetCause.restart.code = 0x03 ∧
    ConfigSource.slot0.code = 0x00 ∧ ConfigSource.slot1.code = 0x01 ∧ ConfigSource.factory.code = 0x02 ∧
    Supply.good.code = 0x00 ∧ Supply.low.code = 0x01) ∧
  (∀ p : Port, holderCode (some p) = portCode p) ∧ portCode .a = 0x00 ∧ portCode .b = 0x01 ∧ portCode .c = 0x02 ∧
  holderCode none = 0xFF

/-! ### The whole hub -/

/-- What changes what. Only commit points, resets and loads touch the configuration in force and the epoch (08 R150; 09 R158).
Only a port's own messages and transactions, and resets and loads, touch its interface: no request, event or time changes
another port's response (10 R176). Only resets set the reset cause, and only a load's completion the configuration source
(11 R185, R186). -/
def Obligations.WhatChangesWhat : Prop :=
  ∀ (c : Instr) (s t : State), exec c s = .next t →
    let resets : Prop := c = .powerReset ∨ c = .lineReset ∨ ∃ straps, c = .restartDelayExpiry straps
    (¬resets → c ≠ .commitPoint → c ≠ .startUpLoadComplete → t.active = s.active ∧ t.epoch = s.epoch) ∧
    (¬resets → t.status.cause = s.status.cause) ∧
    (c ≠ .startUpLoadComplete → t.status.source = s.status.source) ∧
    (¬resets → (∀ straps, c ≠ .resetEnd straps) → ∀ q : Port, requestPort c ≠ some q →
      (∀ message overflow, c ≠ .transportRefusal q message overflow) →
      (∀ address direction written, c ≠ .transactionStart q address direction written) →
      c ≠ .transactionEnd q → t.ports.get q = s.ports.get q)

/-! ### Invariants that every step keeps -/

/-- The delivery unit stays sound (05 R77, R81, R85 to R88; 06 R89, R90, R94, R100): at most 32 entries, numbered in one
series, the READ ones the oldest; a lapsed port has a full queue; a CLOSED port holds nothing; the line of a port follows
its mode, its UNREAD count and its pulse, driven exactly while the hub runs, at the polarity in force. The model's choice:
the flag is SPENT whenever the count is at or above the threshold, also where the pulse was withdrawn or not begun, and an
overtaken pulse is kept only while a later one is in progress (log 25); the line may be inactive after an append that fell
together with a re-open (log 26). -/
def Obligations.DeliveryStaysSound : Prop :=
  ∀ s t : State, s.DeliverySound → step s = .next t → t.DeliverySound

/-- The table and the arbiter stay sound (01 R9, R15, R18, R21; 05 R77; 07 R113, R114): at most 6 entries and 2 of a port,
no tag twice or 0, none of a CLOSED port, MEASURING under the claim alone; and nothing that may begin waits while the unit
is IDLE, a position is held in RUN alone, and a hub in RUN has its next tick. That samples wait on an IDLE unit while a
commit waits is the model's choice (log 7). -/
def Obligations.MeasuringStaysSound : Prop :=
  ∀ s t : State, step s = .next t →
    (s.FreshSound → t.FreshSound) ∧ (s.ArbiterSound → t.ArbiterSound)

/-- The configuration in force and the snapshot of a store in progress stay valid and the lease record sound against the
configuration and the sessions (08 R130, R140, R148, R150; 09 R158, R163); and so do the trackers and the terms under it: a
baseline that a measurement can yield, a bucket inside the drift limit, debounce counts and stamps where the states have
them, and a timer that runs in RUN alone (02 R25, R30; 03 R42 to R45; 04 R58, R65). Trackers and terms OFF before the load's
completion are the model's choice (log 10). -/
def Obligations.ConfigurationStaysSound : Prop :=
  ∀ s t : State, step s = .next t →
    (s.ConfigurationSound → t.ConfigurationSound) ∧
    (s.TrackersSound → t.TrackersSound) ∧ (s.TermsSound → t.TermsSound)

/-- The image store and the ports stay sound (09 R155, R161, R163, R164; 10 R169 to R172): a store in progress writes over
no valid newest image, with a generation above it, and leaves the cells of its target as its phase has them (the model's
choice, logs 14, 15); a port has one of the two addresses and buffers at most 41 bytes, in a write transaction alone. -/
def Obligations.StoreAndPortsStaySound : Prop :=
  ∀ s t : State, step s = .next t →
    (s.StoreSound → t.StoreSound) ∧ (s.PortsSound → t.PortsSound)

/-- The hub right after reset, which the model takes as a part as delivered at the completion of its first load (log 8),
meets every one of those invariants. -/
def Obligations.ResetMeetsTheInvariants : Prop :=
  State.reset.DeliverySound ∧ State.reset.FreshSound ∧ State.reset.ArbiterSound ∧ State.reset.ConfigurationSound ∧
  State.reset.TrackersSound ∧ State.reset.TermsSound ∧ State.reset.StoreSound ∧ State.reset.PortsSound
end

