-- ==== Sys2Proof/Laws/State.lean ====
section
/-! SUPPORT. One lemma for each field of State under each update, true by rfl. -/

namespace Sys2Proof.Machine

@[simp] theorem State.setPending_pending (s : State) (x : List Instr) : (s.setPending x).pending = x := rfl
@[simp] theorem State.setPending_now (s : State) (x : List Instr) : (s.setPending x).now = s.now := rfl
@[simp] theorem State.setPending_phase (s : State) (x : List Instr) : (s.setPending x).phase = s.phase := rfl
@[simp] theorem State.setPending_unit (s : State) (x : List Instr) : (s.setPending x).unit = s.unit := rfl
@[simp] theorem State.setPending_sequencer (s : State) (x : List Instr) : (s.setPending x).sequencer = s.sequencer := rfl
@[simp] theorem State.setPending_trackers (s : State) (x : List Instr) : (s.setPending x).trackers = s.trackers := rfl
@[simp] theorem State.setPending_terms (s : State) (x : List Instr) : (s.setPending x).terms = s.terms := rfl
@[simp] theorem State.setPending_delivery (s : State) (x : List Instr) : (s.setPending x).delivery = s.delivery := rfl
@[simp] theorem State.setPending_fresh (s : State) (x : List Instr) : (s.setPending x).fresh = s.fresh := rfl
@[simp] theorem State.setPending_lease (s : State) (x : List Instr) : (s.setPending x).lease = s.lease := rfl
@[simp] theorem State.setPending_restartDelay (s : State) (x : List Instr) : (s.setPending x).restartDelay = s.restartDelay := rfl
@[simp] theorem State.setPending_active (s : State) (x : List Instr) : (s.setPending x).active = s.active := rfl
@[simp] theorem State.setPending_epoch (s : State) (x : List Instr) : (s.setPending x).epoch = s.epoch := rfl
@[simp] theorem State.setPending_images (s : State) (x : List Instr) : (s.setPending x).images = s.images := rfl
@[simp] theorem State.setPending_supply (s : State) (x : List Instr) : (s.setPending x).supply = s.supply := rfl
@[simp] theorem State.setPending_status (s : State) (x : List Instr) : (s.setPending x).status = s.status := rfl
@[simp] theorem State.setPending_ports (s : State) (x : List Instr) : (s.setPending x).ports = s.ports := rfl

@[simp] theorem State.setNow_pending (s : State) (x : Nat) : (s.setNow x).pending = s.pending := rfl
@[simp] theorem State.setNow_now (s : State) (x : Nat) : (s.setNow x).now = x := rfl
@[simp] theorem State.setNow_phase (s : State) (x : Nat) : (s.setNow x).phase = s.phase := rfl
@[simp] theorem State.setNow_unit (s : State) (x : Nat) : (s.setNow x).unit = s.unit := rfl
@[simp] theorem State.setNow_sequencer (s : State) (x : Nat) : (s.setNow x).sequencer = s.sequencer := rfl
@[simp] theorem State.setNow_trackers (s : State) (x : Nat) : (s.setNow x).trackers = s.trackers := rfl
@[simp] theorem State.setNow_terms (s : State) (x : Nat) : (s.setNow x).terms = s.terms := rfl
@[simp] theorem State.setNow_delivery (s : State) (x : Nat) : (s.setNow x).delivery = s.delivery := rfl
@[simp] theorem State.setNow_fresh (s : State) (x : Nat) : (s.setNow x).fresh = s.fresh := rfl
@[simp] theorem State.setNow_lease (s : State) (x : Nat) : (s.setNow x).lease = s.lease := rfl
@[simp] theorem State.setNow_restartDelay (s : State) (x : Nat) : (s.setNow x).restartDelay = s.restartDelay := rfl
@[simp] theorem State.setNow_active (s : State) (x : Nat) : (s.setNow x).active = s.active := rfl
@[simp] theorem State.setNow_epoch (s : State) (x : Nat) : (s.setNow x).epoch = s.epoch := rfl
@[simp] theorem State.setNow_images (s : State) (x : Nat) : (s.setNow x).images = s.images := rfl
@[simp] theorem State.setNow_supply (s : State) (x : Nat) : (s.setNow x).supply = s.supply := rfl
@[simp] theorem State.setNow_status (s : State) (x : Nat) : (s.setNow x).status = s.status := rfl
@[simp] theorem State.setNow_ports (s : State) (x : Nat) : (s.setNow x).ports = s.ports := rfl

@[simp] theorem State.setPhase_pending (s : State) (x : Phase) : (s.setPhase x).pending = s.pending := rfl
@[simp] theorem State.setPhase_now (s : State) (x : Phase) : (s.setPhase x).now = s.now := rfl
@[simp] theorem State.setPhase_phase (s : State) (x : Phase) : (s.setPhase x).phase = x := rfl
@[simp] theorem State.setPhase_unit (s : State) (x : Phase) : (s.setPhase x).unit = s.unit := rfl
@[simp] theorem State.setPhase_sequencer (s : State) (x : Phase) : (s.setPhase x).sequencer = s.sequencer := rfl
@[simp] theorem State.setPhase_trackers (s : State) (x : Phase) : (s.setPhase x).trackers = s.trackers := rfl
@[simp] theorem State.setPhase_terms (s : State) (x : Phase) : (s.setPhase x).terms = s.terms := rfl
@[simp] theorem State.setPhase_delivery (s : State) (x : Phase) : (s.setPhase x).delivery = s.delivery := rfl
@[simp] theorem State.setPhase_fresh (s : State) (x : Phase) : (s.setPhase x).fresh = s.fresh := rfl
@[simp] theorem State.setPhase_lease (s : State) (x : Phase) : (s.setPhase x).lease = s.lease := rfl
@[simp] theorem State.setPhase_restartDelay (s : State) (x : Phase) : (s.setPhase x).restartDelay = s.restartDelay := rfl
@[simp] theorem State.setPhase_active (s : State) (x : Phase) : (s.setPhase x).active = s.active := rfl
@[simp] theorem State.setPhase_epoch (s : State) (x : Phase) : (s.setPhase x).epoch = s.epoch := rfl
@[simp] theorem State.setPhase_images (s : State) (x : Phase) : (s.setPhase x).images = s.images := rfl
@[simp] theorem State.setPhase_supply (s : State) (x : Phase) : (s.setPhase x).supply = s.supply := rfl
@[simp] theorem State.setPhase_status (s : State) (x : Phase) : (s.setPhase x).status = s.status := rfl
@[simp] theorem State.setPhase_ports (s : State) (x : Phase) : (s.setPhase x).ports = s.ports := rfl

@[simp] theorem State.setUnit_pending (s : State) (x : Option Measurement) : (s.setUnit x).pending = s.pending := rfl
@[simp] theorem State.setUnit_now (s : State) (x : Option Measurement) : (s.setUnit x).now = s.now := rfl
@[simp] theorem State.setUnit_phase (s : State) (x : Option Measurement) : (s.setUnit x).phase = s.phase := rfl
@[simp] theorem State.setUnit_unit (s : State) (x : Option Measurement) : (s.setUnit x).unit = x := rfl
@[simp] theorem State.setUnit_sequencer (s : State) (x : Option Measurement) : (s.setUnit x).sequencer = s.sequencer := rfl
@[simp] theorem State.setUnit_trackers (s : State) (x : Option Measurement) : (s.setUnit x).trackers = s.trackers := rfl
@[simp] theorem State.setUnit_terms (s : State) (x : Option Measurement) : (s.setUnit x).terms = s.terms := rfl
@[simp] theorem State.setUnit_delivery (s : State) (x : Option Measurement) : (s.setUnit x).delivery = s.delivery := rfl
@[simp] theorem State.setUnit_fresh (s : State) (x : Option Measurement) : (s.setUnit x).fresh = s.fresh := rfl
@[simp] theorem State.setUnit_lease (s : State) (x : Option Measurement) : (s.setUnit x).lease = s.lease := rfl
@[simp] theorem State.setUnit_restartDelay (s : State) (x : Option Measurement) : (s.setUnit x).restartDelay = s.restartDelay := rfl
@[simp] theorem State.setUnit_active (s : State) (x : Option Measurement) : (s.setUnit x).active = s.active := rfl
@[simp] theorem State.setUnit_epoch (s : State) (x : Option Measurement) : (s.setUnit x).epoch = s.epoch := rfl
@[simp] theorem State.setUnit_images (s : State) (x : Option Measurement) : (s.setUnit x).images = s.images := rfl
@[simp] theorem State.setUnit_supply (s : State) (x : Option Measurement) : (s.setUnit x).supply = s.supply := rfl
@[simp] theorem State.setUnit_status (s : State) (x : Option Measurement) : (s.setUnit x).status = s.status := rfl
@[simp] theorem State.setUnit_ports (s : State) (x : Option Measurement) : (s.setUnit x).ports = s.ports := rfl

@[simp] theorem State.setSequencer_pending (s : State) (x : Sequencer) : (s.setSequencer x).pending = s.pending := rfl
@[simp] theorem State.setSequencer_now (s : State) (x : Sequencer) : (s.setSequencer x).now = s.now := rfl
@[simp] theorem State.setSequencer_phase (s : State) (x : Sequencer) : (s.setSequencer x).phase = s.phase := rfl
@[simp] theorem State.setSequencer_unit (s : State) (x : Sequencer) : (s.setSequencer x).unit = s.unit := rfl
@[simp] theorem State.setSequencer_sequencer (s : State) (x : Sequencer) : (s.setSequencer x).sequencer = x := rfl
@[simp] theorem State.setSequencer_trackers (s : State) (x : Sequencer) : (s.setSequencer x).trackers = s.trackers := rfl
@[simp] theorem State.setSequencer_terms (s : State) (x : Sequencer) : (s.setSequencer x).terms = s.terms := rfl
@[simp] theorem State.setSequencer_delivery (s : State) (x : Sequencer) : (s.setSequencer x).delivery = s.delivery := rfl
@[simp] theorem State.setSequencer_fresh (s : State) (x : Sequencer) : (s.setSequencer x).fresh = s.fresh := rfl
@[simp] theorem State.setSequencer_lease (s : State) (x : Sequencer) : (s.setSequencer x).lease = s.lease := rfl
@[simp] theorem State.setSequencer_restartDelay (s : State) (x : Sequencer) : (s.setSequencer x).restartDelay = s.restartDelay := rfl
@[simp] theorem State.setSequencer_active (s : State) (x : Sequencer) : (s.setSequencer x).active = s.active := rfl
@[simp] theorem State.setSequencer_epoch (s : State) (x : Sequencer) : (s.setSequencer x).epoch = s.epoch := rfl
@[simp] theorem State.setSequencer_images (s : State) (x : Sequencer) : (s.setSequencer x).images = s.images := rfl
@[simp] theorem State.setSequencer_supply (s : State) (x : Sequencer) : (s.setSequencer x).supply = s.supply := rfl
@[simp] theorem State.setSequencer_status (s : State) (x : Sequencer) : (s.setSequencer x).status = s.status := rfl
@[simp] theorem State.setSequencer_ports (s : State) (x : Sequencer) : (s.setSequencer x).ports = s.ports := rfl

@[simp] theorem State.setTrackers_pending (s : State) (x : Vector Tracker 24) : (s.setTrackers x).pending = s.pending := rfl
@[simp] theorem State.setTrackers_now (s : State) (x : Vector Tracker 24) : (s.setTrackers x).now = s.now := rfl
@[simp] theorem State.setTrackers_phase (s : State) (x : Vector Tracker 24) : (s.setTrackers x).phase = s.phase := rfl
@[simp] theorem State.setTrackers_unit (s : State) (x : Vector Tracker 24) : (s.setTrackers x).unit = s.unit := rfl
@[simp] theorem State.setTrackers_sequencer (s : State) (x : Vector Tracker 24) : (s.setTrackers x).sequencer = s.sequencer := rfl
@[simp] theorem State.setTrackers_trackers (s : State) (x : Vector Tracker 24) : (s.setTrackers x).trackers = x := rfl
@[simp] theorem State.setTrackers_terms (s : State) (x : Vector Tracker 24) : (s.setTrackers x).terms = s.terms := rfl
@[simp] theorem State.setTrackers_delivery (s : State) (x : Vector Tracker 24) : (s.setTrackers x).delivery = s.delivery := rfl
@[simp] theorem State.setTrackers_fresh (s : State) (x : Vector Tracker 24) : (s.setTrackers x).fresh = s.fresh := rfl
@[simp] theorem State.setTrackers_lease (s : State) (x : Vector Tracker 24) : (s.setTrackers x).lease = s.lease := rfl
@[simp] theorem State.setTrackers_restartDelay (s : State) (x : Vector Tracker 24) : (s.setTrackers x).restartDelay = s.restartDelay := rfl
@[simp] theorem State.setTrackers_active (s : State) (x : Vector Tracker 24) : (s.setTrackers x).active = s.active := rfl
@[simp] theorem State.setTrackers_epoch (s : State) (x : Vector Tracker 24) : (s.setTrackers x).epoch = s.epoch := rfl
@[simp] theorem State.setTrackers_images (s : State) (x : Vector Tracker 24) : (s.setTrackers x).images = s.images := rfl
@[simp] theorem State.setTrackers_supply (s : State) (x : Vector Tracker 24) : (s.setTrackers x).supply = s.supply := rfl
@[simp] theorem State.setTrackers_status (s : State) (x : Vector Tracker 24) : (s.setTrackers x).status = s.status := rfl
@[simp] theorem State.setTrackers_ports (s : State) (x : Vector Tracker 24) : (s.setTrackers x).ports = s.ports := rfl

@[simp] theorem State.setTerms_pending (s : State) (x : Vector TermRecord 16) : (s.setTerms x).pending = s.pending := rfl
@[simp] theorem State.setTerms_now (s : State) (x : Vector TermRecord 16) : (s.setTerms x).now = s.now := rfl
@[simp] theorem State.setTerms_phase (s : State) (x : Vector TermRecord 16) : (s.setTerms x).phase = s.phase := rfl
@[simp] theorem State.setTerms_unit (s : State) (x : Vector TermRecord 16) : (s.setTerms x).unit = s.unit := rfl
@[simp] theorem State.setTerms_sequencer (s : State) (x : Vector TermRecord 16) : (s.setTerms x).sequencer = s.sequencer := rfl
@[simp] theorem State.setTerms_trackers (s : State) (x : Vector TermRecord 16) : (s.setTerms x).trackers = s.trackers := rfl
@[simp] theorem State.setTerms_terms (s : State) (x : Vector TermRecord 16) : (s.setTerms x).terms = x := rfl
@[simp] theorem State.setTerms_delivery (s : State) (x : Vector TermRecord 16) : (s.setTerms x).delivery = s.delivery := rfl
@[simp] theorem State.setTerms_fresh (s : State) (x : Vector TermRecord 16) : (s.setTerms x).fresh = s.fresh := rfl
@[simp] theorem State.setTerms_lease (s : State) (x : Vector TermRecord 16) : (s.setTerms x).lease = s.lease := rfl
@[simp] theorem State.setTerms_restartDelay (s : State) (x : Vector TermRecord 16) : (s.setTerms x).restartDelay = s.restartDelay := rfl
@[simp] theorem State.setTerms_active (s : State) (x : Vector TermRecord 16) : (s.setTerms x).active = s.active := rfl
@[simp] theorem State.setTerms_epoch (s : State) (x : Vector TermRecord 16) : (s.setTerms x).epoch = s.epoch := rfl
@[simp] theorem State.setTerms_images (s : State) (x : Vector TermRecord 16) : (s.setTerms x).images = s.images := rfl
@[simp] theorem State.setTerms_supply (s : State) (x : Vector TermRecord 16) : (s.setTerms x).supply = s.supply := rfl
@[simp] theorem State.setTerms_status (s : State) (x : Vector TermRecord 16) : (s.setTerms x).status = s.status := rfl
@[simp] theorem State.setTerms_ports (s : State) (x : Vector TermRecord 16) : (s.setTerms x).ports = s.ports := rfl

@[simp] theorem State.setDelivery_pending (s : State) (x : PortMap Delivery) : (s.setDelivery x).pending = s.pending := rfl
@[simp] theorem State.setDelivery_now (s : State) (x : PortMap Delivery) : (s.setDelivery x).now = s.now := rfl
@[simp] theorem State.setDelivery_phase (s : State) (x : PortMap Delivery) : (s.setDelivery x).phase = s.phase := rfl
@[simp] theorem State.setDelivery_unit (s : State) (x : PortMap Delivery) : (s.setDelivery x).unit = s.unit := rfl
@[simp] theorem State.setDelivery_sequencer (s : State) (x : PortMap Delivery) : (s.setDelivery x).sequencer = s.sequencer := rfl
@[simp] theorem State.setDelivery_trackers (s : State) (x : PortMap Delivery) : (s.setDelivery x).trackers = s.trackers := rfl
@[simp] theorem State.setDelivery_terms (s : State) (x : PortMap Delivery) : (s.setDelivery x).terms = s.terms := rfl
@[simp] theorem State.setDelivery_delivery (s : State) (x : PortMap Delivery) : (s.setDelivery x).delivery = x := rfl
@[simp] theorem State.setDelivery_fresh (s : State) (x : PortMap Delivery) : (s.setDelivery x).fresh = s.fresh := rfl
@[simp] theorem State.setDelivery_lease (s : State) (x : PortMap Delivery) : (s.setDelivery x).lease = s.lease := rfl
@[simp] theorem State.setDelivery_restartDelay (s : State) (x : PortMap Delivery) : (s.setDelivery x).restartDelay = s.restartDelay := rfl
@[simp] theorem State.setDelivery_active (s : State) (x : PortMap Delivery) : (s.setDelivery x).active = s.active := rfl
@[simp] theorem State.setDelivery_epoch (s : State) (x : PortMap Delivery) : (s.setDelivery x).epoch = s.epoch := rfl
@[simp] theorem State.setDelivery_images (s : State) (x : PortMap Delivery) : (s.setDelivery x).images = s.images := rfl
@[simp] theorem State.setDelivery_supply (s : State) (x : PortMap Delivery) : (s.setDelivery x).supply = s.supply := rfl
@[simp] theorem State.setDelivery_status (s : State) (x : PortMap Delivery) : (s.setDelivery x).status = s.status := rfl
@[simp] theorem State.setDelivery_ports (s : State) (x : PortMap Delivery) : (s.setDelivery x).ports = s.ports := rfl

@[simp] theorem State.setFresh_pending (s : State) (x : List FreshEntry) : (s.setFresh x).pending = s.pending := rfl
@[simp] theorem State.setFresh_now (s : State) (x : List FreshEntry) : (s.setFresh x).now = s.now := rfl
@[simp] theorem State.setFresh_phase (s : State) (x : List FreshEntry) : (s.setFresh x).phase = s.phase := rfl
@[simp] theorem State.setFresh_unit (s : State) (x : List FreshEntry) : (s.setFresh x).unit = s.unit := rfl
@[simp] theorem State.setFresh_sequencer (s : State) (x : List FreshEntry) : (s.setFresh x).sequencer = s.sequencer := rfl
@[simp] theorem State.setFresh_trackers (s : State) (x : List FreshEntry) : (s.setFresh x).trackers = s.trackers := rfl
@[simp] theorem State.setFresh_terms (s : State) (x : List FreshEntry) : (s.setFresh x).terms = s.terms := rfl
@[simp] theorem State.setFresh_delivery (s : State) (x : List FreshEntry) : (s.setFresh x).delivery = s.delivery := rfl
@[simp] theorem State.setFresh_fresh (s : State) (x : List FreshEntry) : (s.setFresh x).fresh = x := rfl
@[simp] theorem State.setFresh_lease (s : State) (x : List FreshEntry) : (s.setFresh x).lease = s.lease := rfl
@[simp] theorem State.setFresh_restartDelay (s : State) (x : List FreshEntry) : (s.setFresh x).restartDelay = s.restartDelay := rfl
@[simp] theorem State.setFresh_active (s : State) (x : List FreshEntry) : (s.setFresh x).active = s.active := rfl
@[simp] theorem State.setFresh_epoch (s : State) (x : List FreshEntry) : (s.setFresh x).epoch = s.epoch := rfl
@[simp] theorem State.setFresh_images (s : State) (x : List FreshEntry) : (s.setFresh x).images = s.images := rfl
@[simp] theorem State.setFresh_supply (s : State) (x : List FreshEntry) : (s.setFresh x).supply = s.supply := rfl
@[simp] theorem State.setFresh_status (s : State) (x : List FreshEntry) : (s.setFresh x).status = s.status := rfl
@[simp] theorem State.setFresh_ports (s : State) (x : List FreshEntry) : (s.setFresh x).ports = s.ports := rfl

@[simp] theorem State.setLease_pending (s : State) (x : Lease) : (s.setLease x).pending = s.pending := rfl
@[simp] theorem State.setLease_now (s : State) (x : Lease) : (s.setLease x).now = s.now := rfl
@[simp] theorem State.setLease_phase (s : State) (x : Lease) : (s.setLease x).phase = s.phase := rfl
@[simp] theorem State.setLease_unit (s : State) (x : Lease) : (s.setLease x).unit = s.unit := rfl
@[simp] theorem State.setLease_sequencer (s : State) (x : Lease) : (s.setLease x).sequencer = s.sequencer := rfl
@[simp] theorem State.setLease_trackers (s : State) (x : Lease) : (s.setLease x).trackers = s.trackers := rfl
@[simp] theorem State.setLease_terms (s : State) (x : Lease) : (s.setLease x).terms = s.terms := rfl
@[simp] theorem State.setLease_delivery (s : State) (x : Lease) : (s.setLease x).delivery = s.delivery := rfl
@[simp] theorem State.setLease_fresh (s : State) (x : Lease) : (s.setLease x).fresh = s.fresh := rfl
@[simp] theorem State.setLease_lease (s : State) (x : Lease) : (s.setLease x).lease = x := rfl
@[simp] theorem State.setLease_restartDelay (s : State) (x : Lease) : (s.setLease x).restartDelay = s.restartDelay := rfl
@[simp] theorem State.setLease_active (s : State) (x : Lease) : (s.setLease x).active = s.active := rfl
@[simp] theorem State.setLease_epoch (s : State) (x : Lease) : (s.setLease x).epoch = s.epoch := rfl
@[simp] theorem State.setLease_images (s : State) (x : Lease) : (s.setLease x).images = s.images := rfl
@[simp] theorem State.setLease_supply (s : State) (x : Lease) : (s.setLease x).supply = s.supply := rfl
@[simp] theorem State.setLease_status (s : State) (x : Lease) : (s.setLease x).status = s.status := rfl
@[simp] theorem State.setLease_ports (s : State) (x : Lease) : (s.setLease x).ports = s.ports := rfl

@[simp] theorem State.setRestartDelay_pending (s : State) (x : Option Nat) : (s.setRestartDelay x).pending = s.pending := rfl
@[simp] theorem State.setRestartDelay_now (s : State) (x : Option Nat) : (s.setRestartDelay x).now = s.now := rfl
@[simp] theorem State.setRestartDelay_phase (s : State) (x : Option Nat) : (s.setRestartDelay x).phase = s.phase := rfl
@[simp] theorem State.setRestartDelay_unit (s : State) (x : Option Nat) : (s.setRestartDelay x).unit = s.unit := rfl
@[simp] theorem State.setRestartDelay_sequencer (s : State) (x : Option Nat) : (s.setRestartDelay x).sequencer = s.sequencer := rfl
@[simp] theorem State.setRestartDelay_trackers (s : State) (x : Option Nat) : (s.setRestartDelay x).trackers = s.trackers := rfl
@[simp] theorem State.setRestartDelay_terms (s : State) (x : Option Nat) : (s.setRestartDelay x).terms = s.terms := rfl
@[simp] theorem State.setRestartDelay_delivery (s : State) (x : Option Nat) : (s.setRestartDelay x).delivery = s.delivery := rfl
@[simp] theorem State.setRestartDelay_fresh (s : State) (x : Option Nat) : (s.setRestartDelay x).fresh = s.fresh := rfl
@[simp] theorem State.setRestartDelay_lease (s : State) (x : Option Nat) : (s.setRestartDelay x).lease = s.lease := rfl
@[simp] theorem State.setRestartDelay_restartDelay (s : State) (x : Option Nat) : (s.setRestartDelay x).restartDelay = x := rfl
@[simp] theorem State.setRestartDelay_active (s : State) (x : Option Nat) : (s.setRestartDelay x).active = s.active := rfl
@[simp] theorem State.setRestartDelay_epoch (s : State) (x : Option Nat) : (s.setRestartDelay x).epoch = s.epoch := rfl
@[simp] theorem State.setRestartDelay_images (s : State) (x : Option Nat) : (s.setRestartDelay x).images = s.images := rfl
@[simp] theorem State.setRestartDelay_supply (s : State) (x : Option Nat) : (s.setRestartDelay x).supply = s.supply := rfl
@[simp] theorem State.setRestartDelay_status (s : State) (x : Option Nat) : (s.setRestartDelay x).status = s.status := rfl
@[simp] theorem State.setRestartDelay_ports (s : State) (x : Option Nat) : (s.setRestartDelay x).ports = s.ports := rfl

@[simp] theorem State.setActive_pending (s : State) (x : Option Configuration) : (s.setActive x).pending = s.pending := rfl
@[simp] theorem State.setActive_now (s : State) (x : Option Configuration) : (s.setActive x).now = s.now := rfl
@[simp] theorem State.setActive_phase (s : State) (x : Option Configuration) : (s.setActive x).phase = s.phase := rfl
@[simp] theorem State.setActive_unit (s : State) (x : Option Configuration) : (s.setActive x).unit = s.unit := rfl
@[simp] theorem State.setActive_sequencer (s : State) (x : Option Configuration) : (s.setActive x).sequencer = s.sequencer := rfl
@[simp] theorem State.setActive_trackers (s : State) (x : Option Configuration) : (s.setActive x).trackers = s.trackers := rfl
@[simp] theorem State.setActive_terms (s : State) (x : Option Configuration) : (s.setActive x).terms = s.terms := rfl
@[simp] theorem State.setActive_delivery (s : State) (x : Option Configuration) : (s.setActive x).delivery = s.delivery := rfl
@[simp] theorem State.setActive_fresh (s : State) (x : Option Configuration) : (s.setActive x).fresh = s.fresh := rfl
@[simp] theorem State.setActive_lease (s : State) (x : Option Configuration) : (s.setActive x).lease = s.lease := rfl
@[simp] theorem State.setActive_restartDelay (s : State) (x : Option Configuration) : (s.setActive x).restartDelay = s.restartDelay := rfl
@[simp] theorem State.setActive_active (s : State) (x : Option Configuration) : (s.setActive x).active = x := rfl
@[simp] theorem State.setActive_epoch (s : State) (x : Option Configuration) : (s.setActive x).epoch = s.epoch := rfl
@[simp] theorem State.setActive_images (s : State) (x : Option Configuration) : (s.setActive x).images = s.images := rfl
@[simp] theorem State.setActive_supply (s : State) (x : Option Configuration) : (s.setActive x).supply = s.supply := rfl
@[simp] theorem State.setActive_status (s : State) (x : Option Configuration) : (s.setActive x).status = s.status := rfl
@[simp] theorem State.setActive_ports (s : State) (x : Option Configuration) : (s.setActive x).ports = s.ports := rfl

@[simp] theorem State.setEpoch_pending (s : State) (x : BitVec 8) : (s.setEpoch x).pending = s.pending := rfl
@[simp] theorem State.setEpoch_now (s : State) (x : BitVec 8) : (s.setEpoch x).now = s.now := rfl
@[simp] theorem State.setEpoch_phase (s : State) (x : BitVec 8) : (s.setEpoch x).phase = s.phase := rfl
@[simp] theorem State.setEpoch_unit (s : State) (x : BitVec 8) : (s.setEpoch x).unit = s.unit := rfl
@[simp] theorem State.setEpoch_sequencer (s : State) (x : BitVec 8) : (s.setEpoch x).sequencer = s.sequencer := rfl
@[simp] theorem State.setEpoch_trackers (s : State) (x : BitVec 8) : (s.setEpoch x).trackers = s.trackers := rfl
@[simp] theorem State.setEpoch_terms (s : State) (x : BitVec 8) : (s.setEpoch x).terms = s.terms := rfl
@[simp] theorem State.setEpoch_delivery (s : State) (x : BitVec 8) : (s.setEpoch x).delivery = s.delivery := rfl
@[simp] theorem State.setEpoch_fresh (s : State) (x : BitVec 8) : (s.setEpoch x).fresh = s.fresh := rfl
@[simp] theorem State.setEpoch_lease (s : State) (x : BitVec 8) : (s.setEpoch x).lease = s.lease := rfl
@[simp] theorem State.setEpoch_restartDelay (s : State) (x : BitVec 8) : (s.setEpoch x).restartDelay = s.restartDelay := rfl
@[simp] theorem State.setEpoch_active (s : State) (x : BitVec 8) : (s.setEpoch x).active = s.active := rfl
@[simp] theorem State.setEpoch_epoch (s : State) (x : BitVec 8) : (s.setEpoch x).epoch = x := rfl
@[simp] theorem State.setEpoch_images (s : State) (x : BitVec 8) : (s.setEpoch x).images = s.images := rfl
@[simp] theorem State.setEpoch_supply (s : State) (x : BitVec 8) : (s.setEpoch x).supply = s.supply := rfl
@[simp] theorem State.setEpoch_status (s : State) (x : BitVec 8) : (s.setEpoch x).status = s.status := rfl
@[simp] theorem State.setEpoch_ports (s : State) (x : BitVec 8) : (s.setEpoch x).ports = s.ports := rfl

@[simp] theorem State.setImages_pending (s : State) (x : ImageStore) : (s.setImages x).pending = s.pending := rfl
@[simp] theorem State.setImages_now (s : State) (x : ImageStore) : (s.setImages x).now = s.now := rfl
@[simp] theorem State.setImages_phase (s : State) (x : ImageStore) : (s.setImages x).phase = s.phase := rfl
@[simp] theorem State.setImages_unit (s : State) (x : ImageStore) : (s.setImages x).unit = s.unit := rfl
@[simp] theorem State.setImages_sequencer (s : State) (x : ImageStore) : (s.setImages x).sequencer = s.sequencer := rfl
@[simp] theorem State.setImages_trackers (s : State) (x : ImageStore) : (s.setImages x).trackers = s.trackers := rfl
@[simp] theorem State.setImages_terms (s : State) (x : ImageStore) : (s.setImages x).terms = s.terms := rfl
@[simp] theorem State.setImages_delivery (s : State) (x : ImageStore) : (s.setImages x).delivery = s.delivery := rfl
@[simp] theorem State.setImages_fresh (s : State) (x : ImageStore) : (s.setImages x).fresh = s.fresh := rfl
@[simp] theorem State.setImages_lease (s : State) (x : ImageStore) : (s.setImages x).lease = s.lease := rfl
@[simp] theorem State.setImages_restartDelay (s : State) (x : ImageStore) : (s.setImages x).restartDelay = s.restartDelay := rfl
@[simp] theorem State.setImages_active (s : State) (x : ImageStore) : (s.setImages x).active = s.active := rfl
@[simp] theorem State.setImages_epoch (s : State) (x : ImageStore) : (s.setImages x).epoch = s.epoch := rfl
@[simp] theorem State.setImages_images (s : State) (x : ImageStore) : (s.setImages x).images = x := rfl
@[simp] theorem State.setImages_supply (s : State) (x : ImageStore) : (s.setImages x).supply = s.supply := rfl
@[simp] theorem State.setImages_status (s : State) (x : ImageStore) : (s.setImages x).status = s.status := rfl
@[simp] theorem State.setImages_ports (s : State) (x : ImageStore) : (s.setImages x).ports = s.ports := rfl

@[simp] theorem State.setSupply_pending (s : State) (x : Supply) : (s.setSupply x).pending = s.pending := rfl
@[simp] theorem State.setSupply_now (s : State) (x : Supply) : (s.setSupply x).now = s.now := rfl
@[simp] theorem State.setSupply_phase (s : State) (x : Supply) : (s.setSupply x).phase = s.phase := rfl
@[simp] theorem State.setSupply_unit (s : State) (x : Supply) : (s.setSupply x).unit = s.unit := rfl
@[simp] theorem State.setSupply_sequencer (s : State) (x : Supply) : (s.setSupply x).sequencer = s.sequencer := rfl
@[simp] theorem State.setSupply_trackers (s : State) (x : Supply) : (s.setSupply x).trackers = s.trackers := rfl
@[simp] theorem State.setSupply_terms (s : State) (x : Supply) : (s.setSupply x).terms = s.terms := rfl
@[simp] theorem State.setSupply_delivery (s : State) (x : Supply) : (s.setSupply x).delivery = s.delivery := rfl
@[simp] theorem State.setSupply_fresh (s : State) (x : Supply) : (s.setSupply x).fresh = s.fresh := rfl
@[simp] theorem State.setSupply_lease (s : State) (x : Supply) : (s.setSupply x).lease = s.lease := rfl
@[simp] theorem State.setSupply_restartDelay (s : State) (x : Supply) : (s.setSupply x).restartDelay = s.restartDelay := rfl
@[simp] theorem State.setSupply_active (s : State) (x : Supply) : (s.setSupply x).active = s.active := rfl
@[simp] theorem State.setSupply_epoch (s : State) (x : Supply) : (s.setSupply x).epoch = s.epoch := rfl
@[simp] theorem State.setSupply_images (s : State) (x : Supply) : (s.setSupply x).images = s.images := rfl
@[simp] theorem State.setSupply_supply (s : State) (x : Supply) : (s.setSupply x).supply = x := rfl
@[simp] theorem State.setSupply_status (s : State) (x : Supply) : (s.setSupply x).status = s.status := rfl
@[simp] theorem State.setSupply_ports (s : State) (x : Supply) : (s.setSupply x).ports = s.ports := rfl

@[simp] theorem State.setStatus_pending (s : State) (x : Status) : (s.setStatus x).pending = s.pending := rfl
@[simp] theorem State.setStatus_now (s : State) (x : Status) : (s.setStatus x).now = s.now := rfl
@[simp] theorem State.setStatus_phase (s : State) (x : Status) : (s.setStatus x).phase = s.phase := rfl
@[simp] theorem State.setStatus_unit (s : State) (x : Status) : (s.setStatus x).unit = s.unit := rfl
@[simp] theorem State.setStatus_sequencer (s : State) (x : Status) : (s.setStatus x).sequencer = s.sequencer := rfl
@[simp] theorem State.setStatus_trackers (s : State) (x : Status) : (s.setStatus x).trackers = s.trackers := rfl
@[simp] theorem State.setStatus_terms (s : State) (x : Status) : (s.setStatus x).terms = s.terms := rfl
@[simp] theorem State.setStatus_delivery (s : State) (x : Status) : (s.setStatus x).delivery = s.delivery := rfl
@[simp] theorem State.setStatus_fresh (s : State) (x : Status) : (s.setStatus x).fresh = s.fresh := rfl
@[simp] theorem State.setStatus_lease (s : State) (x : Status) : (s.setStatus x).lease = s.lease := rfl
@[simp] theorem State.setStatus_restartDelay (s : State) (x : Status) : (s.setStatus x).restartDelay = s.restartDelay := rfl
@[simp] theorem State.setStatus_active (s : State) (x : Status) : (s.setStatus x).active = s.active := rfl
@[simp] theorem State.setStatus_epoch (s : State) (x : Status) : (s.setStatus x).epoch = s.epoch := rfl
@[simp] theorem State.setStatus_images (s : State) (x : Status) : (s.setStatus x).images = s.images := rfl
@[simp] theorem State.setStatus_supply (s : State) (x : Status) : (s.setStatus x).supply = s.supply := rfl
@[simp] theorem State.setStatus_status (s : State) (x : Status) : (s.setStatus x).status = x := rfl
@[simp] theorem State.setStatus_ports (s : State) (x : Status) : (s.setStatus x).ports = s.ports := rfl

@[simp] theorem State.setPorts_pending (s : State) (x : PortMap PortInterface) : (s.setPorts x).pending = s.pending := rfl
@[simp] theorem State.setPorts_now (s : State) (x : PortMap PortInterface) : (s.setPorts x).now = s.now := rfl
@[simp] theorem State.setPorts_phase (s : State) (x : PortMap PortInterface) : (s.setPorts x).phase = s.phase := rfl
@[simp] theorem State.setPorts_unit (s : State) (x : PortMap PortInterface) : (s.setPorts x).unit = s.unit := rfl
@[simp] theorem State.setPorts_sequencer (s : State) (x : PortMap PortInterface) : (s.setPorts x).sequencer = s.sequencer := rfl
@[simp] theorem State.setPorts_trackers (s : State) (x : PortMap PortInterface) : (s.setPorts x).trackers = s.trackers := rfl
@[simp] theorem State.setPorts_terms (s : State) (x : PortMap PortInterface) : (s.setPorts x).terms = s.terms := rfl
@[simp] theorem State.setPorts_delivery (s : State) (x : PortMap PortInterface) : (s.setPorts x).delivery = s.delivery := rfl
@[simp] theorem State.setPorts_fresh (s : State) (x : PortMap PortInterface) : (s.setPorts x).fresh = s.fresh := rfl
@[simp] theorem State.setPorts_lease (s : State) (x : PortMap PortInterface) : (s.setPorts x).lease = s.lease := rfl
@[simp] theorem State.setPorts_restartDelay (s : State) (x : PortMap PortInterface) : (s.setPorts x).restartDelay = s.restartDelay := rfl
@[simp] theorem State.setPorts_active (s : State) (x : PortMap PortInterface) : (s.setPorts x).active = s.active := rfl
@[simp] theorem State.setPorts_epoch (s : State) (x : PortMap PortInterface) : (s.setPorts x).epoch = s.epoch := rfl
@[simp] theorem State.setPorts_images (s : State) (x : PortMap PortInterface) : (s.setPorts x).images = s.images := rfl
@[simp] theorem State.setPorts_supply (s : State) (x : PortMap PortInterface) : (s.setPorts x).supply = s.supply := rfl
@[simp] theorem State.setPorts_status (s : State) (x : PortMap PortInterface) : (s.setPorts x).status = s.status := rfl
@[simp] theorem State.setPorts_ports (s : State) (x : PortMap PortInterface) : (s.setPorts x).ports = x := rfl

end Sys2Proof.Machine
end

