-- ==== Sys2Proof/Laws/Frames.lean ====
section
/-! SUPPORT. The frame of each shared operation: one lemma for every field of State that the operation leaves alone. -/

namespace Sys2Proof.Machine

/-- A fold of steps that each keep a reading of the state keeps it. -/
theorem foldl_keeps {α β : Type} (g : State → β) (f : State → α → State) (h : ∀ s x, g (f s x) = g s) :
    ∀ (l : List α) (s : State), g (l.foldl f s) = g s
  | [], _ => rfl
  | x :: xs, s => (foldl_keeps g f h xs (f s x)).trans (h s x)

@[simp] theorem State.setTracker_pending (s : State) (n : ChannelId) (t : Tracker) : (s.setTracker n t).pending = s.pending := rfl
@[simp] theorem State.setTracker_now (s : State) (n : ChannelId) (t : Tracker) : (s.setTracker n t).now = s.now := rfl
@[simp] theorem State.setTracker_phase (s : State) (n : ChannelId) (t : Tracker) : (s.setTracker n t).phase = s.phase := rfl
@[simp] theorem State.setTracker_unit (s : State) (n : ChannelId) (t : Tracker) : (s.setTracker n t).unit = s.unit := rfl
@[simp] theorem State.setTracker_sequencer (s : State) (n : ChannelId) (t : Tracker) : (s.setTracker n t).sequencer = s.sequencer := rfl
@[simp] theorem State.setTracker_terms (s : State) (n : ChannelId) (t : Tracker) : (s.setTracker n t).terms = s.terms := rfl
@[simp] theorem State.setTracker_delivery (s : State) (n : ChannelId) (t : Tracker) : (s.setTracker n t).delivery = s.delivery := rfl
@[simp] theorem State.setTracker_fresh (s : State) (n : ChannelId) (t : Tracker) : (s.setTracker n t).fresh = s.fresh := rfl
@[simp] theorem State.setTracker_lease (s : State) (n : ChannelId) (t : Tracker) : (s.setTracker n t).lease = s.lease := rfl
@[simp] theorem State.setTracker_restartDelay (s : State) (n : ChannelId) (t : Tracker) : (s.setTracker n t).restartDelay = s.restartDelay := rfl
@[simp] theorem State.setTracker_active (s : State) (n : ChannelId) (t : Tracker) : (s.setTracker n t).active = s.active := rfl
@[simp] theorem State.setTracker_epoch (s : State) (n : ChannelId) (t : Tracker) : (s.setTracker n t).epoch = s.epoch := rfl
@[simp] theorem State.setTracker_images (s : State) (n : ChannelId) (t : Tracker) : (s.setTracker n t).images = s.images := rfl
@[simp] theorem State.setTracker_supply (s : State) (n : ChannelId) (t : Tracker) : (s.setTracker n t).supply = s.supply := rfl
@[simp] theorem State.setTracker_status (s : State) (n : ChannelId) (t : Tracker) : (s.setTracker n t).status = s.status := rfl
@[simp] theorem State.setTracker_ports (s : State) (n : ChannelId) (t : Tracker) : (s.setTracker n t).ports = s.ports := rfl

@[simp] theorem State.setTerm_pending (s : State) (k : TermId) (r : TermRecord) : (s.setTerm k r).pending = s.pending := rfl
@[simp] theorem State.setTerm_now (s : State) (k : TermId) (r : TermRecord) : (s.setTerm k r).now = s.now := rfl
@[simp] theorem State.setTerm_phase (s : State) (k : TermId) (r : TermRecord) : (s.setTerm k r).phase = s.phase := rfl
@[simp] theorem State.setTerm_unit (s : State) (k : TermId) (r : TermRecord) : (s.setTerm k r).unit = s.unit := rfl
@[simp] theorem State.setTerm_sequencer (s : State) (k : TermId) (r : TermRecord) : (s.setTerm k r).sequencer = s.sequencer := rfl
@[simp] theorem State.setTerm_trackers (s : State) (k : TermId) (r : TermRecord) : (s.setTerm k r).trackers = s.trackers := rfl
@[simp] theorem State.setTerm_delivery (s : State) (k : TermId) (r : TermRecord) : (s.setTerm k r).delivery = s.delivery := rfl
@[simp] theorem State.setTerm_fresh (s : State) (k : TermId) (r : TermRecord) : (s.setTerm k r).fresh = s.fresh := rfl
@[simp] theorem State.setTerm_lease (s : State) (k : TermId) (r : TermRecord) : (s.setTerm k r).lease = s.lease := rfl
@[simp] theorem State.setTerm_restartDelay (s : State) (k : TermId) (r : TermRecord) : (s.setTerm k r).restartDelay = s.restartDelay := rfl
@[simp] theorem State.setTerm_active (s : State) (k : TermId) (r : TermRecord) : (s.setTerm k r).active = s.active := rfl
@[simp] theorem State.setTerm_epoch (s : State) (k : TermId) (r : TermRecord) : (s.setTerm k r).epoch = s.epoch := rfl
@[simp] theorem State.setTerm_images (s : State) (k : TermId) (r : TermRecord) : (s.setTerm k r).images = s.images := rfl
@[simp] theorem State.setTerm_supply (s : State) (k : TermId) (r : TermRecord) : (s.setTerm k r).supply = s.supply := rfl
@[simp] theorem State.setTerm_status (s : State) (k : TermId) (r : TermRecord) : (s.setTerm k r).status = s.status := rfl
@[simp] theorem State.setTerm_ports (s : State) (k : TermId) (r : TermRecord) : (s.setTerm k r).ports = s.ports := rfl

@[simp] theorem State.setDeliveryOf_pending (s : State) (p : Port) (d : Delivery) : (s.setDeliveryOf p d).pending = s.pending := rfl
@[simp] theorem State.setDeliveryOf_now (s : State) (p : Port) (d : Delivery) : (s.setDeliveryOf p d).now = s.now := rfl
@[simp] theorem State.setDeliveryOf_phase (s : State) (p : Port) (d : Delivery) : (s.setDeliveryOf p d).phase = s.phase := rfl
@[simp] theorem State.setDeliveryOf_unit (s : State) (p : Port) (d : Delivery) : (s.setDeliveryOf p d).unit = s.unit := rfl
@[simp] theorem State.setDeliveryOf_sequencer (s : State) (p : Port) (d : Delivery) : (s.setDeliveryOf p d).sequencer = s.sequencer := rfl
@[simp] theorem State.setDeliveryOf_trackers (s : State) (p : Port) (d : Delivery) : (s.setDeliveryOf p d).trackers = s.trackers := rfl
@[simp] theorem State.setDeliveryOf_terms (s : State) (p : Port) (d : Delivery) : (s.setDeliveryOf p d).terms = s.terms := rfl
@[simp] theorem State.setDeliveryOf_fresh (s : State) (p : Port) (d : Delivery) : (s.setDeliveryOf p d).fresh = s.fresh := rfl
@[simp] theorem State.setDeliveryOf_lease (s : State) (p : Port) (d : Delivery) : (s.setDeliveryOf p d).lease = s.lease := rfl
@[simp] theorem State.setDeliveryOf_restartDelay (s : State) (p : Port) (d : Delivery) : (s.setDeliveryOf p d).restartDelay = s.restartDelay := rfl
@[simp] theorem State.setDeliveryOf_active (s : State) (p : Port) (d : Delivery) : (s.setDeliveryOf p d).active = s.active := rfl
@[simp] theorem State.setDeliveryOf_epoch (s : State) (p : Port) (d : Delivery) : (s.setDeliveryOf p d).epoch = s.epoch := rfl
@[simp] theorem State.setDeliveryOf_images (s : State) (p : Port) (d : Delivery) : (s.setDeliveryOf p d).images = s.images := rfl
@[simp] theorem State.setDeliveryOf_supply (s : State) (p : Port) (d : Delivery) : (s.setDeliveryOf p d).supply = s.supply := rfl
@[simp] theorem State.setDeliveryOf_status (s : State) (p : Port) (d : Delivery) : (s.setDeliveryOf p d).status = s.status := rfl
@[simp] theorem State.setDeliveryOf_ports (s : State) (p : Port) (d : Delivery) : (s.setDeliveryOf p d).ports = s.ports := rfl

@[simp] theorem State.setPort_pending (s : State) (p : Port) (i : PortInterface) : (s.setPort p i).pending = s.pending := rfl
@[simp] theorem State.setPort_now (s : State) (p : Port) (i : PortInterface) : (s.setPort p i).now = s.now := rfl
@[simp] theorem State.setPort_phase (s : State) (p : Port) (i : PortInterface) : (s.setPort p i).phase = s.phase := rfl
@[simp] theorem State.setPort_unit (s : State) (p : Port) (i : PortInterface) : (s.setPort p i).unit = s.unit := rfl
@[simp] theorem State.setPort_sequencer (s : State) (p : Port) (i : PortInterface) : (s.setPort p i).sequencer = s.sequencer := rfl
@[simp] theorem State.setPort_trackers (s : State) (p : Port) (i : PortInterface) : (s.setPort p i).trackers = s.trackers := rfl
@[simp] theorem State.setPort_terms (s : State) (p : Port) (i : PortInterface) : (s.setPort p i).terms = s.terms := rfl
@[simp] theorem State.setPort_delivery (s : State) (p : Port) (i : PortInterface) : (s.setPort p i).delivery = s.delivery := rfl
@[simp] theorem State.setPort_fresh (s : State) (p : Port) (i : PortInterface) : (s.setPort p i).fresh = s.fresh := rfl
@[simp] theorem State.setPort_lease (s : State) (p : Port) (i : PortInterface) : (s.setPort p i).lease = s.lease := rfl
@[simp] theorem State.setPort_restartDelay (s : State) (p : Port) (i : PortInterface) : (s.setPort p i).restartDelay = s.restartDelay := rfl
@[simp] theorem State.setPort_active (s : State) (p : Port) (i : PortInterface) : (s.setPort p i).active = s.active := rfl
@[simp] theorem State.setPort_epoch (s : State) (p : Port) (i : PortInterface) : (s.setPort p i).epoch = s.epoch := rfl
@[simp] theorem State.setPort_images (s : State) (p : Port) (i : PortInterface) : (s.setPort p i).images = s.images := rfl
@[simp] theorem State.setPort_supply (s : State) (p : Port) (i : PortInterface) : (s.setPort p i).supply = s.supply := rfl
@[simp] theorem State.setPort_status (s : State) (p : Port) (i : PortInterface) : (s.setPort p i).status = s.status := rfl

@[simp] theorem State.setCounters_pending (s : State) (c : Counters) : (s.setCounters c).pending = s.pending := rfl
@[simp] theorem State.setCounters_now (s : State) (c : Counters) : (s.setCounters c).now = s.now := rfl
@[simp] theorem State.setCounters_phase (s : State) (c : Counters) : (s.setCounters c).phase = s.phase := rfl
@[simp] theorem State.setCounters_unit (s : State) (c : Counters) : (s.setCounters c).unit = s.unit := rfl
@[simp] theorem State.setCounters_sequencer (s : State) (c : Counters) : (s.setCounters c).sequencer = s.sequencer := rfl
@[simp] theorem State.setCounters_trackers (s : State) (c : Counters) : (s.setCounters c).trackers = s.trackers := rfl
@[simp] theorem State.setCounters_terms (s : State) (c : Counters) : (s.setCounters c).terms = s.terms := rfl
@[simp] theorem State.setCounters_delivery (s : State) (c : Counters) : (s.setCounters c).delivery = s.delivery := rfl
@[simp] theorem State.setCounters_fresh (s : State) (c : Counters) : (s.setCounters c).fresh = s.fresh := rfl
@[simp] theorem State.setCounters_lease (s : State) (c : Counters) : (s.setCounters c).lease = s.lease := rfl
@[simp] theorem State.setCounters_restartDelay (s : State) (c : Counters) : (s.setCounters c).restartDelay = s.restartDelay := rfl
@[simp] theorem State.setCounters_active (s : State) (c : Counters) : (s.setCounters c).active = s.active := rfl
@[simp] theorem State.setCounters_epoch (s : State) (c : Counters) : (s.setCounters c).epoch = s.epoch := rfl
@[simp] theorem State.setCounters_images (s : State) (c : Counters) : (s.setCounters c).images = s.images := rfl
@[simp] theorem State.setCounters_supply (s : State) (c : Counters) : (s.setCounters c).supply = s.supply := rfl
@[simp] theorem State.setCounters_ports (s : State) (c : Counters) : (s.setCounters c).ports = s.ports := rfl

@[simp] theorem State.advanceTo_pending (s : State) (t : Nat) : (s.advanceTo t).pending = s.pending := rfl
@[simp] theorem State.advanceTo_phase (s : State) (t : Nat) : (s.advanceTo t).phase = s.phase := rfl
@[simp] theorem State.advanceTo_unit (s : State) (t : Nat) : (s.advanceTo t).unit = s.unit := rfl
@[simp] theorem State.advanceTo_sequencer (s : State) (t : Nat) : (s.advanceTo t).sequencer = s.sequencer := rfl
@[simp] theorem State.advanceTo_trackers (s : State) (t : Nat) : (s.advanceTo t).trackers = s.trackers := rfl
@[simp] theorem State.advanceTo_terms (s : State) (t : Nat) : (s.advanceTo t).terms = s.terms := rfl
@[simp] theorem State.advanceTo_delivery (s : State) (t : Nat) : (s.advanceTo t).delivery = s.delivery := rfl
@[simp] theorem State.advanceTo_fresh (s : State) (t : Nat) : (s.advanceTo t).fresh = s.fresh := rfl
@[simp] theorem State.advanceTo_lease (s : State) (t : Nat) : (s.advanceTo t).lease = s.lease := rfl
@[simp] theorem State.advanceTo_restartDelay (s : State) (t : Nat) : (s.advanceTo t).restartDelay = s.restartDelay := rfl
@[simp] theorem State.advanceTo_active (s : State) (t : Nat) : (s.advanceTo t).active = s.active := rfl
@[simp] theorem State.advanceTo_epoch (s : State) (t : Nat) : (s.advanceTo t).epoch = s.epoch := rfl
@[simp] theorem State.advanceTo_images (s : State) (t : Nat) : (s.advanceTo t).images = s.images := rfl
@[simp] theorem State.advanceTo_supply (s : State) (t : Nat) : (s.advanceTo t).supply = s.supply := rfl
@[simp] theorem State.advanceTo_status (s : State) (t : Nat) : (s.advanceTo t).status = s.status := rfl
@[simp] theorem State.advanceTo_ports (s : State) (t : Nat) : (s.advanceTo t).ports = s.ports := rfl

@[simp] theorem State.hold_pending (s : State) (p : Port) (r : Response) : (s.hold p r).pending = s.pending := rfl
@[simp] theorem State.hold_now (s : State) (p : Port) (r : Response) : (s.hold p r).now = s.now := rfl
@[simp] theorem State.hold_phase (s : State) (p : Port) (r : Response) : (s.hold p r).phase = s.phase := rfl
@[simp] theorem State.hold_unit (s : State) (p : Port) (r : Response) : (s.hold p r).unit = s.unit := rfl
@[simp] theorem State.hold_sequencer (s : State) (p : Port) (r : Response) : (s.hold p r).sequencer = s.sequencer := rfl
@[simp] theorem State.hold_trackers (s : State) (p : Port) (r : Response) : (s.hold p r).trackers = s.trackers := rfl
@[simp] theorem State.hold_terms (s : State) (p : Port) (r : Response) : (s.hold p r).terms = s.terms := rfl
@[simp] theorem State.hold_delivery (s : State) (p : Port) (r : Response) : (s.hold p r).delivery = s.delivery := rfl
@[simp] theorem State.hold_fresh (s : State) (p : Port) (r : Response) : (s.hold p r).fresh = s.fresh := rfl
@[simp] theorem State.hold_lease (s : State) (p : Port) (r : Response) : (s.hold p r).lease = s.lease := rfl
@[simp] theorem State.hold_restartDelay (s : State) (p : Port) (r : Response) : (s.hold p r).restartDelay = s.restartDelay := rfl
@[simp] theorem State.hold_active (s : State) (p : Port) (r : Response) : (s.hold p r).active = s.active := rfl
@[simp] theorem State.hold_epoch (s : State) (p : Port) (r : Response) : (s.hold p r).epoch = s.epoch := rfl
@[simp] theorem State.hold_images (s : State) (p : Port) (r : Response) : (s.hold p r).images = s.images := rfl
@[simp] theorem State.hold_supply (s : State) (p : Port) (r : Response) : (s.hold p r).supply = s.supply := rfl
@[simp] theorem State.hold_status (s : State) (p : Port) (r : Response) : (s.hold p r).status = s.status := rfl

@[simp] theorem State.answer_pending (s : State) (p : Port) (tag : Byte) (r : Reply) : (s.answer p tag r).pending = s.pending := rfl
@[simp] theorem State.answer_now (s : State) (p : Port) (tag : Byte) (r : Reply) : (s.answer p tag r).now = s.now := rfl
@[simp] theorem State.answer_phase (s : State) (p : Port) (tag : Byte) (r : Reply) : (s.answer p tag r).phase = s.phase := rfl
@[simp] theorem State.answer_unit (s : State) (p : Port) (tag : Byte) (r : Reply) : (s.answer p tag r).unit = s.unit := rfl
@[simp] theorem State.answer_sequencer (s : State) (p : Port) (tag : Byte) (r : Reply) : (s.answer p tag r).sequencer = s.sequencer := rfl
@[simp] theorem State.answer_trackers (s : State) (p : Port) (tag : Byte) (r : Reply) : (s.answer p tag r).trackers = s.trackers := rfl
@[simp] theorem State.answer_terms (s : State) (p : Port) (tag : Byte) (r : Reply) : (s.answer p tag r).terms = s.terms := rfl
@[simp] theorem State.answer_delivery (s : State) (p : Port) (tag : Byte) (r : Reply) : (s.answer p tag r).delivery = s.delivery := rfl
@[simp] theorem State.answer_fresh (s : State) (p : Port) (tag : Byte) (r : Reply) : (s.answer p tag r).fresh = s.fresh := rfl
@[simp] theorem State.answer_lease (s : State) (p : Port) (tag : Byte) (r : Reply) : (s.answer p tag r).lease = s.lease := rfl
@[simp] theorem State.answer_restartDelay (s : State) (p : Port) (tag : Byte) (r : Reply) : (s.answer p tag r).restartDelay = s.restartDelay := rfl
@[simp] theorem State.answer_active (s : State) (p : Port) (tag : Byte) (r : Reply) : (s.answer p tag r).active = s.active := rfl
@[simp] theorem State.answer_epoch (s : State) (p : Port) (tag : Byte) (r : Reply) : (s.answer p tag r).epoch = s.epoch := rfl
@[simp] theorem State.answer_images (s : State) (p : Port) (tag : Byte) (r : Reply) : (s.answer p tag r).images = s.images := rfl
@[simp] theorem State.answer_supply (s : State) (p : Port) (tag : Byte) (r : Reply) : (s.answer p tag r).supply = s.supply := rfl
@[simp] theorem State.answer_status (s : State) (p : Port) (tag : Byte) (r : Reply) : (s.answer p tag r).status = s.status := rfl

@[simp] theorem State.restartLeaseTimer_pending (s : State) (p : Port) : (s.restartLeaseTimer p).pending = s.pending := by
  unfold State.restartLeaseTimer; split <;> (try split) <;> rfl
@[simp] theorem State.restartLeaseTimer_now (s : State) (p : Port) : (s.restartLeaseTimer p).now = s.now := by
  unfold State.restartLeaseTimer; split <;> (try split) <;> rfl
@[simp] theorem State.restartLeaseTimer_phase (s : State) (p : Port) : (s.restartLeaseTimer p).phase = s.phase := by
  unfold State.restartLeaseTimer; split <;> (try split) <;> rfl
@[simp] theorem State.restartLeaseTimer_unit (s : State) (p : Port) : (s.restartLeaseTimer p).unit = s.unit := by
  unfold State.restartLeaseTimer; split <;> (try split) <;> rfl
@[simp] theorem State.restartLeaseTimer_sequencer (s : State) (p : Port) : (s.restartLeaseTimer p).sequencer = s.sequencer := by
  unfold State.restartLeaseTimer; split <;> (try split) <;> rfl
@[simp] theorem State.restartLeaseTimer_trackers (s : State) (p : Port) : (s.restartLeaseTimer p).trackers = s.trackers := by
  unfold State.restartLeaseTimer; split <;> (try split) <;> rfl
@[simp] theorem State.restartLeaseTimer_terms (s : State) (p : Port) : (s.restartLeaseTimer p).terms = s.terms := by
  unfold State.restartLeaseTimer; split <;> (try split) <;> rfl
@[simp] theorem State.restartLeaseTimer_delivery (s : State) (p : Port) : (s.restartLeaseTimer p).delivery = s.delivery := by
  unfold State.restartLeaseTimer; split <;> (try split) <;> rfl
@[simp] theorem State.restartLeaseTimer_fresh (s : State) (p : Port) : (s.restartLeaseTimer p).fresh = s.fresh := by
  unfold State.restartLeaseTimer; split <;> (try split) <;> rfl
@[simp] theorem State.restartLeaseTimer_restartDelay (s : State) (p : Port) : (s.restartLeaseTimer p).restartDelay = s.restartDelay := by
  unfold State.restartLeaseTimer; split <;> (try split) <;> rfl
@[simp] theorem State.restartLeaseTimer_active (s : State) (p : Port) : (s.restartLeaseTimer p).active = s.active := by
  unfold State.restartLeaseTimer; split <;> (try split) <;> rfl
@[simp] theorem State.restartLeaseTimer_epoch (s : State) (p : Port) : (s.restartLeaseTimer p).epoch = s.epoch := by
  unfold State.restartLeaseTimer; split <;> (try split) <;> rfl
@[simp] theorem State.restartLeaseTimer_images (s : State) (p : Port) : (s.restartLeaseTimer p).images = s.images := by
  unfold State.restartLeaseTimer; split <;> (try split) <;> rfl
@[simp] theorem State.restartLeaseTimer_supply (s : State) (p : Port) : (s.restartLeaseTimer p).supply = s.supply := by
  unfold State.restartLeaseTimer; split <;> (try split) <;> rfl
@[simp] theorem State.restartLeaseTimer_status (s : State) (p : Port) : (s.restartLeaseTimer p).status = s.status := by
  unfold State.restartLeaseTimer; split <;> (try split) <;> rfl
@[simp] theorem State.restartLeaseTimer_ports (s : State) (p : Port) : (s.restartLeaseTimer p).ports = s.ports := by
  unfold State.restartLeaseTimer; split <;> (try split) <;> rfl

@[simp] theorem State.countLapse_pending (s : State) (p : Port) : (s.countLapse p).pending = s.pending := rfl
@[simp] theorem State.countLapse_now (s : State) (p : Port) : (s.countLapse p).now = s.now := rfl
@[simp] theorem State.countLapse_phase (s : State) (p : Port) : (s.countLapse p).phase = s.phase := rfl
@[simp] theorem State.countLapse_unit (s : State) (p : Port) : (s.countLapse p).unit = s.unit := rfl
@[simp] theorem State.countLapse_sequencer (s : State) (p : Port) : (s.countLapse p).sequencer = s.sequencer := rfl
@[simp] theorem State.countLapse_trackers (s : State) (p : Port) : (s.countLapse p).trackers = s.trackers := rfl
@[simp] theorem State.countLapse_terms (s : State) (p : Port) : (s.countLapse p).terms = s.terms := rfl
@[simp] theorem State.countLapse_delivery (s : State) (p : Port) : (s.countLapse p).delivery = s.delivery := rfl
@[simp] theorem State.countLapse_fresh (s : State) (p : Port) : (s.countLapse p).fresh = s.fresh := rfl
@[simp] theorem State.countLapse_lease (s : State) (p : Port) : (s.countLapse p).lease = s.lease := rfl
@[simp] theorem State.countLapse_restartDelay (s : State) (p : Port) : (s.countLapse p).restartDelay = s.restartDelay := rfl
@[simp] theorem State.countLapse_active (s : State) (p : Port) : (s.countLapse p).active = s.active := rfl
@[simp] theorem State.countLapse_epoch (s : State) (p : Port) : (s.countLapse p).epoch = s.epoch := rfl
@[simp] theorem State.countLapse_images (s : State) (p : Port) : (s.countLapse p).images = s.images := rfl
@[simp] theorem State.countLapse_supply (s : State) (p : Port) : (s.countLapse p).supply = s.supply := rfl
@[simp] theorem State.countLapse_ports (s : State) (p : Port) : (s.countLapse p).ports = s.ports := rfl

@[simp] theorem State.offerTo_pending (s : State) (p : Port) (r : Report) : (s.offerTo p r).pending = s.pending := by
  unfold State.offerTo; dsimp only; split <;> (try split) <;> rfl
@[simp] theorem State.offerTo_now (s : State) (p : Port) (r : Report) : (s.offerTo p r).now = s.now := by
  unfold State.offerTo; dsimp only; split <;> (try split) <;> rfl
@[simp] theorem State.offerTo_phase (s : State) (p : Port) (r : Report) : (s.offerTo p r).phase = s.phase := by
  unfold State.offerTo; dsimp only; split <;> (try split) <;> rfl
@[simp] theorem State.offerTo_unit (s : State) (p : Port) (r : Report) : (s.offerTo p r).unit = s.unit := by
  unfold State.offerTo; dsimp only; split <;> (try split) <;> rfl
@[simp] theorem State.offerTo_sequencer (s : State) (p : Port) (r : Report) : (s.offerTo p r).sequencer = s.sequencer := by
  unfold State.offerTo; dsimp only; split <;> (try split) <;> rfl
@[simp] theorem State.offerTo_trackers (s : State) (p : Port) (r : Report) : (s.offerTo p r).trackers = s.trackers := by
  unfold State.offerTo; dsimp only; split <;> (try split) <;> rfl
@[simp] theorem State.offerTo_terms (s : State) (p : Port) (r : Report) : (s.offerTo p r).terms = s.terms := by
  unfold State.offerTo; dsimp only; split <;> (try split) <;> rfl
@[simp] theorem State.offerTo_fresh (s : State) (p : Port) (r : Report) : (s.offerTo p r).fresh = s.fresh := by
  unfold State.offerTo; dsimp only; split <;> (try split) <;> rfl
@[simp] theorem State.offerTo_lease (s : State) (p : Port) (r : Report) : (s.offerTo p r).lease = s.lease := by
  unfold State.offerTo; dsimp only; split <;> (try split) <;> rfl
@[simp] theorem State.offerTo_restartDelay (s : State) (p : Port) (r : Report) : (s.offerTo p r).restartDelay = s.restartDelay := by
  unfold State.offerTo; dsimp only; split <;> (try split) <;> rfl
@[simp] theorem State.offerTo_active (s : State) (p : Port) (r : Report) : (s.offerTo p r).active = s.active := by
  unfold State.offerTo; dsimp only; split <;> (try split) <;> rfl
@[simp] theorem State.offerTo_epoch (s : State) (p : Port) (r : Report) : (s.offerTo p r).epoch = s.epoch := by
  unfold State.offerTo; dsimp only; split <;> (try split) <;> rfl
@[simp] theorem State.offerTo_images (s : State) (p : Port) (r : Report) : (s.offerTo p r).images = s.images := by
  unfold State.offerTo; dsimp only; split <;> (try split) <;> rfl
@[simp] theorem State.offerTo_supply (s : State) (p : Port) (r : Report) : (s.offerTo p r).supply = s.supply := by
  unfold State.offerTo; dsimp only; split <;> (try split) <;> rfl
@[simp] theorem State.offerTo_ports (s : State) (p : Port) (r : Report) : (s.offerTo p r).ports = s.ports := by
  unfold State.offerTo; dsimp only; split <;> (try split) <;> rfl

@[simp] theorem State.offerIfSubscribed_pending (s : State) (p : Port) (r : Report) : (s.offerIfSubscribed p r).pending = s.pending := by
  unfold State.offerIfSubscribed; split <;> (try split) <;> simp
@[simp] theorem State.offerIfSubscribed_now (s : State) (p : Port) (r : Report) : (s.offerIfSubscribed p r).now = s.now := by
  unfold State.offerIfSubscribed; split <;> (try split) <;> simp
@[simp] theorem State.offerIfSubscribed_phase (s : State) (p : Port) (r : Report) : (s.offerIfSubscribed p r).phase = s.phase := by
  unfold State.offerIfSubscribed; split <;> (try split) <;> simp
@[simp] theorem State.offerIfSubscribed_unit (s : State) (p : Port) (r : Report) : (s.offerIfSubscribed p r).unit = s.unit := by
  unfold State.offerIfSubscribed; split <;> (try split) <;> simp
@[simp] theorem State.offerIfSubscribed_sequencer (s : State) (p : Port) (r : Report) : (s.offerIfSubscribed p r).sequencer = s.sequencer := by
  unfold State.offerIfSubscribed; split <;> (try split) <;> simp
@[simp] theorem State.offerIfSubscribed_trackers (s : State) (p : Port) (r : Report) : (s.offerIfSubscribed p r).trackers = s.trackers := by
  unfold State.offerIfSubscribed; split <;> (try split) <;> simp
@[simp] theorem State.offerIfSubscribed_terms (s : State) (p : Port) (r : Report) : (s.offerIfSubscribed p r).terms = s.terms := by
  unfold State.offerIfSubscribed; split <;> (try split) <;> simp
@[simp] theorem State.offerIfSubscribed_fresh (s : State) (p : Port) (r : Report) : (s.offerIfSubscribed p r).fresh = s.fresh := by
  unfold State.offerIfSubscribed; split <;> (try split) <;> simp
@[simp] theorem State.offerIfSubscribed_lease (s : State) (p : Port) (r : Report) : (s.offerIfSubscribed p r).lease = s.lease := by
  unfold State.offerIfSubscribed; split <;> (try split) <;> simp
@[simp] theorem State.offerIfSubscribed_restartDelay (s : State) (p : Port) (r : Report) : (s.offerIfSubscribed p r).restartDelay = s.restartDelay := by
  unfold State.offerIfSubscribed; split <;> (try split) <;> simp
@[simp] theorem State.offerIfSubscribed_active (s : State) (p : Port) (r : Report) : (s.offerIfSubscribed p r).active = s.active := by
  unfold State.offerIfSubscribed; split <;> (try split) <;> simp
@[simp] theorem State.offerIfSubscribed_epoch (s : State) (p : Port) (r : Report) : (s.offerIfSubscribed p r).epoch = s.epoch := by
  unfold State.offerIfSubscribed; split <;> (try split) <;> simp
@[simp] theorem State.offerIfSubscribed_images (s : State) (p : Port) (r : Report) : (s.offerIfSubscribed p r).images = s.images := by
  unfold State.offerIfSubscribed; split <;> (try split) <;> simp
@[simp] theorem State.offerIfSubscribed_supply (s : State) (p : Port) (r : Report) : (s.offerIfSubscribed p r).supply = s.supply := by
  unfold State.offerIfSubscribed; split <;> (try split) <;> simp
@[simp] theorem State.offerIfSubscribed_ports (s : State) (p : Port) (r : Report) : (s.offerIfSubscribed p r).ports = s.ports := by
  unfold State.offerIfSubscribed; split <;> (try split) <;> simp

@[simp] theorem State.offerAll_pending (s : State) (r : Report) : (s.offerAll r).pending = s.pending := foldl_keeps State.pending _ (by simp) _ s
@[simp] theorem State.offerAll_now (s : State) (r : Report) : (s.offerAll r).now = s.now := foldl_keeps State.now _ (by simp) _ s
@[simp] theorem State.offerAll_phase (s : State) (r : Report) : (s.offerAll r).phase = s.phase := foldl_keeps State.phase _ (by simp) _ s
@[simp] theorem State.offerAll_unit (s : State) (r : Report) : (s.offerAll r).unit = s.unit := foldl_keeps State.unit _ (by simp) _ s
@[simp] theorem State.offerAll_sequencer (s : State) (r : Report) : (s.offerAll r).sequencer = s.sequencer := foldl_keeps State.sequencer _ (by simp) _ s
@[simp] theorem State.offerAll_trackers (s : State) (r : Report) : (s.offerAll r).trackers = s.trackers := foldl_keeps State.trackers _ (by simp) _ s
@[simp] theorem State.offerAll_terms (s : State) (r : Report) : (s.offerAll r).terms = s.terms := foldl_keeps State.terms _ (by simp) _ s
@[simp] theorem State.offerAll_fresh (s : State) (r : Report) : (s.offerAll r).fresh = s.fresh := foldl_keeps State.fresh _ (by simp) _ s
@[simp] theorem State.offerAll_lease (s : State) (r : Report) : (s.offerAll r).lease = s.lease := foldl_keeps State.lease _ (by simp) _ s
@[simp] theorem State.offerAll_restartDelay (s : State) (r : Report) : (s.offerAll r).restartDelay = s.restartDelay := foldl_keeps State.restartDelay _ (by simp) _ s
@[simp] theorem State.offerAll_active (s : State) (r : Report) : (s.offerAll r).active = s.active := foldl_keeps State.active _ (by simp) _ s
@[simp] theorem State.offerAll_epoch (s : State) (r : Report) : (s.offerAll r).epoch = s.epoch := foldl_keeps State.epoch _ (by simp) _ s
@[simp] theorem State.offerAll_images (s : State) (r : Report) : (s.offerAll r).images = s.images := foldl_keeps State.images _ (by simp) _ s
@[simp] theorem State.offerAll_supply (s : State) (r : Report) : (s.offerAll r).supply = s.supply := foldl_keeps State.supply _ (by simp) _ s
@[simp] theorem State.offerAll_ports (s : State) (r : Report) : (s.offerAll r).ports = s.ports := foldl_keeps State.ports _ (by simp) _ s

@[simp] theorem State.trackerMoves_pending (s : State) (n : ChannelId) (x : Tracker × Option Report) : (s.trackerMoves n x).pending = s.pending := by
  unfold State.trackerMoves; split <;> simp
@[simp] theorem State.trackerMoves_now (s : State) (n : ChannelId) (x : Tracker × Option Report) : (s.trackerMoves n x).now = s.now := by
  unfold State.trackerMoves; split <;> simp
@[simp] theorem State.trackerMoves_phase (s : State) (n : ChannelId) (x : Tracker × Option Report) : (s.trackerMoves n x).phase = s.phase := by
  unfold State.trackerMoves; split <;> simp
@[simp] theorem State.trackerMoves_unit (s : State) (n : ChannelId) (x : Tracker × Option Report) : (s.trackerMoves n x).unit = s.unit := by
  unfold State.trackerMoves; split <;> simp
@[simp] theorem State.trackerMoves_sequencer (s : State) (n : ChannelId) (x : Tracker × Option Report) : (s.trackerMoves n x).sequencer = s.sequencer := by
  unfold State.trackerMoves; split <;> simp
@[simp] theorem State.trackerMoves_terms (s : State) (n : ChannelId) (x : Tracker × Option Report) : (s.trackerMoves n x).terms = s.terms := by
  unfold State.trackerMoves; split <;> simp
@[simp] theorem State.trackerMoves_fresh (s : State) (n : ChannelId) (x : Tracker × Option Report) : (s.trackerMoves n x).fresh = s.fresh := by
  unfold State.trackerMoves; split <;> simp
@[simp] theorem State.trackerMoves_lease (s : State) (n : ChannelId) (x : Tracker × Option Report) : (s.trackerMoves n x).lease = s.lease := by
  unfold State.trackerMoves; split <;> simp
@[simp] theorem State.trackerMoves_restartDelay (s : State) (n : ChannelId) (x : Tracker × Option Report) : (s.trackerMoves n x).restartDelay = s.restartDelay := by
  unfold State.trackerMoves; split <;> simp
@[simp] theorem State.trackerMoves_active (s : State) (n : ChannelId) (x : Tracker × Option Report) : (s.trackerMoves n x).active = s.active := by
  unfold State.trackerMoves; split <;> simp
@[simp] theorem State.trackerMoves_epoch (s : State) (n : ChannelId) (x : Tracker × Option Report) : (s.trackerMoves n x).epoch = s.epoch := by
  unfold State.trackerMoves; split <;> simp
@[simp] theorem State.trackerMoves_images (s : State) (n : ChannelId) (x : Tracker × Option Report) : (s.trackerMoves n x).images = s.images := by
  unfold State.trackerMoves; split <;> simp
@[simp] theorem State.trackerMoves_supply (s : State) (n : ChannelId) (x : Tracker × Option Report) : (s.trackerMoves n x).supply = s.supply := by
  unfold State.trackerMoves; split <;> simp
@[simp] theorem State.trackerMoves_ports (s : State) (n : ChannelId) (x : Tracker × Option Report) : (s.trackerMoves n x).ports = s.ports := by
  unfold State.trackerMoves; split <;> simp

@[simp] theorem State.countOutOfRange_pending (s : State) (n : ChannelId) : (s.countOutOfRange n).pending = s.pending := by
  unfold State.countOutOfRange; split <;> simp
@[simp] theorem State.countOutOfRange_now (s : State) (n : ChannelId) : (s.countOutOfRange n).now = s.now := by
  unfold State.countOutOfRange; split <;> simp
@[simp] theorem State.countOutOfRange_phase (s : State) (n : ChannelId) : (s.countOutOfRange n).phase = s.phase := by
  unfold State.countOutOfRange; split <;> simp
@[simp] theorem State.countOutOfRange_unit (s : State) (n : ChannelId) : (s.countOutOfRange n).unit = s.unit := by
  unfold State.countOutOfRange; split <;> simp
@[simp] theorem State.countOutOfRange_sequencer (s : State) (n : ChannelId) : (s.countOutOfRange n).sequencer = s.sequencer := by
  unfold State.countOutOfRange; split <;> simp
@[simp] theorem State.countOutOfRange_trackers (s : State) (n : ChannelId) : (s.countOutOfRange n).trackers = s.trackers := by
  unfold State.countOutOfRange; split <;> simp
@[simp] theorem State.countOutOfRange_terms (s : State) (n : ChannelId) : (s.countOutOfRange n).terms = s.terms := by
  unfold State.countOutOfRange; split <;> simp
@[simp] theorem State.countOutOfRange_delivery (s : State) (n : ChannelId) : (s.countOutOfRange n).delivery = s.delivery := by
  unfold State.countOutOfRange; split <;> simp
@[simp] theorem State.countOutOfRange_fresh (s : State) (n : ChannelId) : (s.countOutOfRange n).fresh = s.fresh := by
  unfold State.countOutOfRange; split <;> simp
@[simp] theorem State.countOutOfRange_lease (s : State) (n : ChannelId) : (s.countOutOfRange n).lease = s.lease := by
  unfold State.countOutOfRange; split <;> simp
@[simp] theorem State.countOutOfRange_restartDelay (s : State) (n : ChannelId) : (s.countOutOfRange n).restartDelay = s.restartDelay := by
  unfold State.countOutOfRange; split <;> simp
@[simp] theorem State.countOutOfRange_active (s : State) (n : ChannelId) : (s.countOutOfRange n).active = s.active := by
  unfold State.countOutOfRange; split <;> simp
@[simp] theorem State.countOutOfRange_epoch (s : State) (n : ChannelId) : (s.countOutOfRange n).epoch = s.epoch := by
  unfold State.countOutOfRange; split <;> simp
@[simp] theorem State.countOutOfRange_images (s : State) (n : ChannelId) : (s.countOutOfRange n).images = s.images := by
  unfold State.countOutOfRange; split <;> simp
@[simp] theorem State.countOutOfRange_supply (s : State) (n : ChannelId) : (s.countOutOfRange n).supply = s.supply := by
  unfold State.countOutOfRange; split <;> simp
@[simp] theorem State.countOutOfRange_ports (s : State) (n : ChannelId) : (s.countOutOfRange n).ports = s.ports := by
  unfold State.countOutOfRange; split <;> simp

@[simp] theorem State.trackerTakes_pending (s : State) (n : ChannelId) (raw : Nat) (inRange : Bool) : (s.trackerTakes n raw inRange).pending = s.pending := by
  unfold State.trackerTakes; split <;> simp
@[simp] theorem State.trackerTakes_now (s : State) (n : ChannelId) (raw : Nat) (inRange : Bool) : (s.trackerTakes n raw inRange).now = s.now := by
  unfold State.trackerTakes; split <;> simp
@[simp] theorem State.trackerTakes_phase (s : State) (n : ChannelId) (raw : Nat) (inRange : Bool) : (s.trackerTakes n raw inRange).phase = s.phase := by
  unfold State.trackerTakes; split <;> simp
@[simp] theorem State.trackerTakes_unit (s : State) (n : ChannelId) (raw : Nat) (inRange : Bool) : (s.trackerTakes n raw inRange).unit = s.unit := by
  unfold State.trackerTakes; split <;> simp
@[simp] theorem State.trackerTakes_sequencer (s : State) (n : ChannelId) (raw : Nat) (inRange : Bool) : (s.trackerTakes n raw inRange).sequencer = s.sequencer := by
  unfold State.trackerTakes; split <;> simp
@[simp] theorem State.trackerTakes_terms (s : State) (n : ChannelId) (raw : Nat) (inRange : Bool) : (s.trackerTakes n raw inRange).terms = s.terms := by
  unfold State.trackerTakes; split <;> simp
@[simp] theorem State.trackerTakes_fresh (s : State) (n : ChannelId) (raw : Nat) (inRange : Bool) : (s.trackerTakes n raw inRange).fresh = s.fresh := by
  unfold State.trackerTakes; split <;> simp
@[simp] theorem State.trackerTakes_lease (s : State) (n : ChannelId) (raw : Nat) (inRange : Bool) : (s.trackerTakes n raw inRange).lease = s.lease := by
  unfold State.trackerTakes; split <;> simp
@[simp] theorem State.trackerTakes_restartDelay (s : State) (n : ChannelId) (raw : Nat) (inRange : Bool) : (s.trackerTakes n raw inRange).restartDelay = s.restartDelay := by
  unfold State.trackerTakes; split <;> simp
@[simp] theorem State.trackerTakes_active (s : State) (n : ChannelId) (raw : Nat) (inRange : Bool) : (s.trackerTakes n raw inRange).active = s.active := by
  unfold State.trackerTakes; split <;> simp
@[simp] theorem State.trackerTakes_epoch (s : State) (n : ChannelId) (raw : Nat) (inRange : Bool) : (s.trackerTakes n raw inRange).epoch = s.epoch := by
  unfold State.trackerTakes; split <;> simp
@[simp] theorem State.trackerTakes_images (s : State) (n : ChannelId) (raw : Nat) (inRange : Bool) : (s.trackerTakes n raw inRange).images = s.images := by
  unfold State.trackerTakes; split <;> simp
@[simp] theorem State.trackerTakes_supply (s : State) (n : ChannelId) (raw : Nat) (inRange : Bool) : (s.trackerTakes n raw inRange).supply = s.supply := by
  unfold State.trackerTakes; split <;> simp
@[simp] theorem State.trackerTakes_ports (s : State) (n : ChannelId) (raw : Nat) (inRange : Bool) : (s.trackerTakes n raw inRange).ports = s.ports := by
  unfold State.trackerTakes; split <;> simp

@[simp] theorem State.mapHoldTimers_pending (s : State) (f : HoldTimer → HoldTimer) : (s.mapHoldTimers f).pending = s.pending := State.setTrackers_pending s _
@[simp] theorem State.mapHoldTimers_now (s : State) (f : HoldTimer → HoldTimer) : (s.mapHoldTimers f).now = s.now := State.setTrackers_now s _
@[simp] theorem State.mapHoldTimers_phase (s : State) (f : HoldTimer → HoldTimer) : (s.mapHoldTimers f).phase = s.phase := State.setTrackers_phase s _
@[simp] theorem State.mapHoldTimers_unit (s : State) (f : HoldTimer → HoldTimer) : (s.mapHoldTimers f).unit = s.unit := State.setTrackers_unit s _
@[simp] theorem State.mapHoldTimers_sequencer (s : State) (f : HoldTimer → HoldTimer) : (s.mapHoldTimers f).sequencer = s.sequencer := State.setTrackers_sequencer s _
@[simp] theorem State.mapHoldTimers_terms (s : State) (f : HoldTimer → HoldTimer) : (s.mapHoldTimers f).terms = s.terms := State.setTrackers_terms s _
@[simp] theorem State.mapHoldTimers_delivery (s : State) (f : HoldTimer → HoldTimer) : (s.mapHoldTimers f).delivery = s.delivery := State.setTrackers_delivery s _
@[simp] theorem State.mapHoldTimers_fresh (s : State) (f : HoldTimer → HoldTimer) : (s.mapHoldTimers f).fresh = s.fresh := State.setTrackers_fresh s _
@[simp] theorem State.mapHoldTimers_lease (s : State) (f : HoldTimer → HoldTimer) : (s.mapHoldTimers f).lease = s.lease := State.setTrackers_lease s _
@[simp] theorem State.mapHoldTimers_restartDelay (s : State) (f : HoldTimer → HoldTimer) : (s.mapHoldTimers f).restartDelay = s.restartDelay := State.setTrackers_restartDelay s _
@[simp] theorem State.mapHoldTimers_active (s : State) (f : HoldTimer → HoldTimer) : (s.mapHoldTimers f).active = s.active := State.setTrackers_active s _
@[simp] theorem State.mapHoldTimers_epoch (s : State) (f : HoldTimer → HoldTimer) : (s.mapHoldTimers f).epoch = s.epoch := State.setTrackers_epoch s _
@[simp] theorem State.mapHoldTimers_images (s : State) (f : HoldTimer → HoldTimer) : (s.mapHoldTimers f).images = s.images := State.setTrackers_images s _
@[simp] theorem State.mapHoldTimers_supply (s : State) (f : HoldTimer → HoldTimer) : (s.mapHoldTimers f).supply = s.supply := State.setTrackers_supply s _
@[simp] theorem State.mapHoldTimers_status (s : State) (f : HoldTimer → HoldTimer) : (s.mapHoldTimers f).status = s.status := State.setTrackers_status s _
@[simp] theorem State.mapHoldTimers_ports (s : State) (f : HoldTimer → HoldTimer) : (s.mapHoldTimers f).ports = s.ports := State.setTrackers_ports s _

@[simp] theorem State.realignChannels_pending (s : State) (old new : Configuration) : (s.realignChannels old new).pending = s.pending := by
  refine foldl_keeps State.pending _ (fun s n => ?_) _ s
  unfold State.realignChannel; dsimp only; split <;> (try split) <;> simp
@[simp] theorem State.realignChannels_now (s : State) (old new : Configuration) : (s.realignChannels old new).now = s.now := by
  refine foldl_keeps State.now _ (fun s n => ?_) _ s
  unfold State.realignChannel; dsimp only; split <;> (try split) <;> simp
@[simp] theorem State.realignChannels_phase (s : State) (old new : Configuration) : (s.realignChannels old new).phase = s.phase := by
  refine foldl_keeps State.phase _ (fun s n => ?_) _ s
  unfold State.realignChannel; dsimp only; split <;> (try split) <;> simp
@[simp] theorem State.realignChannels_unit (s : State) (old new : Configuration) : (s.realignChannels old new).unit = s.unit := by
  refine foldl_keeps State.unit _ (fun s n => ?_) _ s
  unfold State.realignChannel; dsimp only; split <;> (try split) <;> simp
@[simp] theorem State.realignChannels_sequencer (s : State) (old new : Configuration) : (s.realignChannels old new).sequencer = s.sequencer := by
  refine foldl_keeps State.sequencer _ (fun s n => ?_) _ s
  unfold State.realignChannel; dsimp only; split <;> (try split) <;> simp
@[simp] theorem State.realignChannels_terms (s : State) (old new : Configuration) : (s.realignChannels old new).terms = s.terms := by
  refine foldl_keeps State.terms _ (fun s n => ?_) _ s
  unfold State.realignChannel; dsimp only; split <;> (try split) <;> simp
@[simp] theorem State.realignChannels_fresh (s : State) (old new : Configuration) : (s.realignChannels old new).fresh = s.fresh := by
  refine foldl_keeps State.fresh _ (fun s n => ?_) _ s
  unfold State.realignChannel; dsimp only; split <;> (try split) <;> simp
@[simp] theorem State.realignChannels_lease (s : State) (old new : Configuration) : (s.realignChannels old new).lease = s.lease := by
  refine foldl_keeps State.lease _ (fun s n => ?_) _ s
  unfold State.realignChannel; dsimp only; split <;> (try split) <;> simp
@[simp] theorem State.realignChannels_restartDelay (s : State) (old new : Configuration) : (s.realignChannels old new).restartDelay = s.restartDelay := by
  refine foldl_keeps State.restartDelay _ (fun s n => ?_) _ s
  unfold State.realignChannel; dsimp only; split <;> (try split) <;> simp
@[simp] theorem State.realignChannels_active (s : State) (old new : Configuration) : (s.realignChannels old new).active = s.active := by
  refine foldl_keeps State.active _ (fun s n => ?_) _ s
  unfold State.realignChannel; dsimp only; split <;> (try split) <;> simp
@[simp] theorem State.realignChannels_epoch (s : State) (old new : Configuration) : (s.realignChannels old new).epoch = s.epoch := by
  refine foldl_keeps State.epoch _ (fun s n => ?_) _ s
  unfold State.realignChannel; dsimp only; split <;> (try split) <;> simp
@[simp] theorem State.realignChannels_images (s : State) (old new : Configuration) : (s.realignChannels old new).images = s.images := by
  refine foldl_keeps State.images _ (fun s n => ?_) _ s
  unfold State.realignChannel; dsimp only; split <;> (try split) <;> simp
@[simp] theorem State.realignChannels_supply (s : State) (old new : Configuration) : (s.realignChannels old new).supply = s.supply := by
  refine foldl_keeps State.supply _ (fun s n => ?_) _ s
  unfold State.realignChannel; dsimp only; split <;> (try split) <;> simp
@[simp] theorem State.realignChannels_ports (s : State) (old new : Configuration) : (s.realignChannels old new).ports = s.ports := by
  refine foldl_keeps State.ports _ (fun s n => ?_) _ s
  unfold State.realignChannel; dsimp only; split <;> (try split) <;> simp

@[simp] theorem State.termMoves_pending (s : State) (k : TermId) (x : TermRecord × Option Report) : (s.termMoves k x).pending = s.pending := by
  unfold State.termMoves; split <;> simp
@[simp] theorem State.termMoves_now (s : State) (k : TermId) (x : TermRecord × Option Report) : (s.termMoves k x).now = s.now := by
  unfold State.termMoves; split <;> simp
@[simp] theorem State.termMoves_phase (s : State) (k : TermId) (x : TermRecord × Option Report) : (s.termMoves k x).phase = s.phase := by
  unfold State.termMoves; split <;> simp
@[simp] theorem State.termMoves_unit (s : State) (k : TermId) (x : TermRecord × Option Report) : (s.termMoves k x).unit = s.unit := by
  unfold State.termMoves; split <;> simp
@[simp] theorem State.termMoves_sequencer (s : State) (k : TermId) (x : TermRecord × Option Report) : (s.termMoves k x).sequencer = s.sequencer := by
  unfold State.termMoves; split <;> simp
@[simp] theorem State.termMoves_trackers (s : State) (k : TermId) (x : TermRecord × Option Report) : (s.termMoves k x).trackers = s.trackers := by
  unfold State.termMoves; split <;> simp
@[simp] theorem State.termMoves_fresh (s : State) (k : TermId) (x : TermRecord × Option Report) : (s.termMoves k x).fresh = s.fresh := by
  unfold State.termMoves; split <;> simp
@[simp] theorem State.termMoves_lease (s : State) (k : TermId) (x : TermRecord × Option Report) : (s.termMoves k x).lease = s.lease := by
  unfold State.termMoves; split <;> simp
@[simp] theorem State.termMoves_restartDelay (s : State) (k : TermId) (x : TermRecord × Option Report) : (s.termMoves k x).restartDelay = s.restartDelay := by
  unfold State.termMoves; split <;> simp
@[simp] theorem State.termMoves_active (s : State) (k : TermId) (x : TermRecord × Option Report) : (s.termMoves k x).active = s.active := by
  unfold State.termMoves; split <;> simp
@[simp] theorem State.termMoves_epoch (s : State) (k : TermId) (x : TermRecord × Option Report) : (s.termMoves k x).epoch = s.epoch := by
  unfold State.termMoves; split <;> simp
@[simp] theorem State.termMoves_images (s : State) (k : TermId) (x : TermRecord × Option Report) : (s.termMoves k x).images = s.images := by
  unfold State.termMoves; split <;> simp
@[simp] theorem State.termMoves_supply (s : State) (k : TermId) (x : TermRecord × Option Report) : (s.termMoves k x).supply = s.supply := by
  unfold State.termMoves; split <;> simp
@[simp] theorem State.termMoves_ports (s : State) (k : TermId) (x : TermRecord × Option Report) : (s.termMoves k x).ports = s.ports := by
  unfold State.termMoves; split <;> simp

@[simp] theorem State.evaluateTerms_pending (s : State) : (s.evaluateTerms).pending = s.pending := by
  refine foldl_keeps State.pending _ (fun s n => ?_) _ s
  unfold State.evaluateTerm; dsimp only; split <;> simp
@[simp] theorem State.evaluateTerms_now (s : State) : (s.evaluateTerms).now = s.now := by
  refine foldl_keeps State.now _ (fun s n => ?_) _ s
  unfold State.evaluateTerm; dsimp only; split <;> simp
@[simp] theorem State.evaluateTerms_phase (s : State) : (s.evaluateTerms).phase = s.phase := by
  refine foldl_keeps State.phase _ (fun s n => ?_) _ s
  unfold State.evaluateTerm; dsimp only; split <;> simp
@[simp] theorem State.evaluateTerms_unit (s : State) : (s.evaluateTerms).unit = s.unit := by
  refine foldl_keeps State.unit _ (fun s n => ?_) _ s
  unfold State.evaluateTerm; dsimp only; split <;> simp
@[simp] theorem State.evaluateTerms_sequencer (s : State) : (s.evaluateTerms).sequencer = s.sequencer := by
  refine foldl_keeps State.sequencer _ (fun s n => ?_) _ s
  unfold State.evaluateTerm; dsimp only; split <;> simp
@[simp] theorem State.evaluateTerms_trackers (s : State) : (s.evaluateTerms).trackers = s.trackers := by
  refine foldl_keeps State.trackers _ (fun s n => ?_) _ s
  unfold State.evaluateTerm; dsimp only; split <;> simp
@[simp] theorem State.evaluateTerms_fresh (s : State) : (s.evaluateTerms).fresh = s.fresh := by
  refine foldl_keeps State.fresh _ (fun s n => ?_) _ s
  unfold State.evaluateTerm; dsimp only; split <;> simp
@[simp] theorem State.evaluateTerms_lease (s : State) : (s.evaluateTerms).lease = s.lease := by
  refine foldl_keeps State.lease _ (fun s n => ?_) _ s
  unfold State.evaluateTerm; dsimp only; split <;> simp
@[simp] theorem State.evaluateTerms_restartDelay (s : State) : (s.evaluateTerms).restartDelay = s.restartDelay := by
  refine foldl_keeps State.restartDelay _ (fun s n => ?_) _ s
  unfold State.evaluateTerm; dsimp only; split <;> simp
@[simp] theorem State.evaluateTerms_active (s : State) : (s.evaluateTerms).active = s.active := by
  refine foldl_keeps State.active _ (fun s n => ?_) _ s
  unfold State.evaluateTerm; dsimp only; split <;> simp
@[simp] theorem State.evaluateTerms_epoch (s : State) : (s.evaluateTerms).epoch = s.epoch := by
  refine foldl_keeps State.epoch _ (fun s n => ?_) _ s
  unfold State.evaluateTerm; dsimp only; split <;> simp
@[simp] theorem State.evaluateTerms_images (s : State) : (s.evaluateTerms).images = s.images := by
  refine foldl_keeps State.images _ (fun s n => ?_) _ s
  unfold State.evaluateTerm; dsimp only; split <;> simp
@[simp] theorem State.evaluateTerms_supply (s : State) : (s.evaluateTerms).supply = s.supply := by
  refine foldl_keeps State.supply _ (fun s n => ?_) _ s
  unfold State.evaluateTerm; dsimp only; split <;> simp
@[simp] theorem State.evaluateTerms_ports (s : State) : (s.evaluateTerms).ports = s.ports := by
  refine foldl_keeps State.ports _ (fun s n => ?_) _ s
  unfold State.evaluateTerm; dsimp only; split <;> simp

@[simp] theorem State.resetTerms_pending (s : State) (old new : Configuration) : (s.resetTerms old new).pending = s.pending := by
  refine foldl_keeps State.pending _ (fun s n => ?_) _ s
  unfold State.resetTerm; dsimp only; split <;> simp
@[simp] theorem State.resetTerms_now (s : State) (old new : Configuration) : (s.resetTerms old new).now = s.now := by
  refine foldl_keeps State.now _ (fun s n => ?_) _ s
  unfold State.resetTerm; dsimp only; split <;> simp
@[simp] theorem State.resetTerms_phase (s : State) (old new : Configuration) : (s.resetTerms old new).phase = s.phase := by
  refine foldl_keeps State.phase _ (fun s n => ?_) _ s
  unfold State.resetTerm; dsimp only; split <;> simp
@[simp] theorem State.resetTerms_unit (s : State) (old new : Configuration) : (s.resetTerms old new).unit = s.unit := by
  refine foldl_keeps State.unit _ (fun s n => ?_) _ s
  unfold State.resetTerm; dsimp only; split <;> simp
@[simp] theorem State.resetTerms_sequencer (s : State) (old new : Configuration) : (s.resetTerms old new).sequencer = s.sequencer := by
  refine foldl_keeps State.sequencer _ (fun s n => ?_) _ s
  unfold State.resetTerm; dsimp only; split <;> simp
@[simp] theorem State.resetTerms_trackers (s : State) (old new : Configuration) : (s.resetTerms old new).trackers = s.trackers := by
  refine foldl_keeps State.trackers _ (fun s n => ?_) _ s
  unfold State.resetTerm; dsimp only; split <;> simp
@[simp] theorem State.resetTerms_fresh (s : State) (old new : Configuration) : (s.resetTerms old new).fresh = s.fresh := by
  refine foldl_keeps State.fresh _ (fun s n => ?_) _ s
  unfold State.resetTerm; dsimp only; split <;> simp
@[simp] theorem State.resetTerms_lease (s : State) (old new : Configuration) : (s.resetTerms old new).lease = s.lease := by
  refine foldl_keeps State.lease _ (fun s n => ?_) _ s
  unfold State.resetTerm; dsimp only; split <;> simp
@[simp] theorem State.resetTerms_restartDelay (s : State) (old new : Configuration) : (s.resetTerms old new).restartDelay = s.restartDelay := by
  refine foldl_keeps State.restartDelay _ (fun s n => ?_) _ s
  unfold State.resetTerm; dsimp only; split <;> simp
@[simp] theorem State.resetTerms_active (s : State) (old new : Configuration) : (s.resetTerms old new).active = s.active := by
  refine foldl_keeps State.active _ (fun s n => ?_) _ s
  unfold State.resetTerm; dsimp only; split <;> simp
@[simp] theorem State.resetTerms_epoch (s : State) (old new : Configuration) : (s.resetTerms old new).epoch = s.epoch := by
  refine foldl_keeps State.epoch _ (fun s n => ?_) _ s
  unfold State.resetTerm; dsimp only; split <;> simp
@[simp] theorem State.resetTerms_images (s : State) (old new : Configuration) : (s.resetTerms old new).images = s.images := by
  refine foldl_keeps State.images _ (fun s n => ?_) _ s
  unfold State.resetTerm; dsimp only; split <;> simp
@[simp] theorem State.resetTerms_supply (s : State) (old new : Configuration) : (s.resetTerms old new).supply = s.supply := by
  refine foldl_keeps State.supply _ (fun s n => ?_) _ s
  unfold State.resetTerm; dsimp only; split <;> simp
@[simp] theorem State.resetTerms_ports (s : State) (old new : Configuration) : (s.resetTerms old new).ports = s.ports := by
  refine foldl_keeps State.ports _ (fun s n => ?_) _ s
  unfold State.resetTerm; dsimp only; split <;> simp

@[simp] theorem State.beginMeasurement_pending (s : State) (kind : ClaimKind) (n : ChannelId) (retry : Retry) : (s.beginMeasurement kind n retry).pending = s.pending := rfl
@[simp] theorem State.beginMeasurement_now (s : State) (kind : ClaimKind) (n : ChannelId) (retry : Retry) : (s.beginMeasurement kind n retry).now = s.now := rfl
@[simp] theorem State.beginMeasurement_phase (s : State) (kind : ClaimKind) (n : ChannelId) (retry : Retry) : (s.beginMeasurement kind n retry).phase = s.phase := rfl
@[simp] theorem State.beginMeasurement_sequencer (s : State) (kind : ClaimKind) (n : ChannelId) (retry : Retry) : (s.beginMeasurement kind n retry).sequencer = s.sequencer := rfl
@[simp] theorem State.beginMeasurement_trackers (s : State) (kind : ClaimKind) (n : ChannelId) (retry : Retry) : (s.beginMeasurement kind n retry).trackers = s.trackers := rfl
@[simp] theorem State.beginMeasurement_terms (s : State) (kind : ClaimKind) (n : ChannelId) (retry : Retry) : (s.beginMeasurement kind n retry).terms = s.terms := rfl
@[simp] theorem State.beginMeasurement_delivery (s : State) (kind : ClaimKind) (n : ChannelId) (retry : Retry) : (s.beginMeasurement kind n retry).delivery = s.delivery := rfl
@[simp] theorem State.beginMeasurement_fresh (s : State) (kind : ClaimKind) (n : ChannelId) (retry : Retry) : (s.beginMeasurement kind n retry).fresh = s.fresh := rfl
@[simp] theorem State.beginMeasurement_lease (s : State) (kind : ClaimKind) (n : ChannelId) (retry : Retry) : (s.beginMeasurement kind n retry).lease = s.lease := rfl
@[simp] theorem State.beginMeasurement_restartDelay (s : State) (kind : ClaimKind) (n : ChannelId) (retry : Retry) : (s.beginMeasurement kind n retry).restartDelay = s.restartDelay := rfl
@[simp] theorem State.beginMeasurement_active (s : State) (kind : ClaimKind) (n : ChannelId) (retry : Retry) : (s.beginMeasurement kind n retry).active = s.active := rfl
@[simp] theorem State.beginMeasurement_epoch (s : State) (kind : ClaimKind) (n : ChannelId) (retry : Retry) : (s.beginMeasurement kind n retry).epoch = s.epoch := rfl
@[simp] theorem State.beginMeasurement_images (s : State) (kind : ClaimKind) (n : ChannelId) (retry : Retry) : (s.beginMeasurement kind n retry).images = s.images := rfl
@[simp] theorem State.beginMeasurement_supply (s : State) (kind : ClaimKind) (n : ChannelId) (retry : Retry) : (s.beginMeasurement kind n retry).supply = s.supply := rfl
@[simp] theorem State.beginMeasurement_status (s : State) (kind : ClaimKind) (n : ChannelId) (retry : Retry) : (s.beginMeasurement kind n retry).status = s.status := rfl
@[simp] theorem State.beginMeasurement_ports (s : State) (kind : ClaimKind) (n : ChannelId) (retry : Retry) : (s.beginMeasurement kind n retry).ports = s.ports := rfl

@[simp] theorem State.consult_pending (s : State) : (s.consult).pending = s.pending := by
  unfold State.consult; split <;> (try split) <;> (try split) <;> rfl
@[simp] theorem State.consult_now (s : State) : (s.consult).now = s.now := by
  unfold State.consult; split <;> (try split) <;> (try split) <;> rfl
@[simp] theorem State.consult_phase (s : State) : (s.consult).phase = s.phase := by
  unfold State.consult; split <;> (try split) <;> (try split) <;> rfl
@[simp] theorem State.consult_sequencer (s : State) : (s.consult).sequencer = s.sequencer := by
  unfold State.consult; split <;> (try split) <;> (try split) <;> rfl
@[simp] theorem State.consult_trackers (s : State) : (s.consult).trackers = s.trackers := by
  unfold State.consult; split <;> (try split) <;> (try split) <;> rfl
@[simp] theorem State.consult_terms (s : State) : (s.consult).terms = s.terms := by
  unfold State.consult; split <;> (try split) <;> (try split) <;> rfl
@[simp] theorem State.consult_delivery (s : State) : (s.consult).delivery = s.delivery := by
  unfold State.consult; split <;> (try split) <;> (try split) <;> rfl
@[simp] theorem State.consult_lease (s : State) : (s.consult).lease = s.lease := by
  unfold State.consult; split <;> (try split) <;> (try split) <;> rfl
@[simp] theorem State.consult_restartDelay (s : State) : (s.consult).restartDelay = s.restartDelay := by
  unfold State.consult; split <;> (try split) <;> (try split) <;> rfl
@[simp] theorem State.consult_active (s : State) : (s.consult).active = s.active := by
  unfold State.consult; split <;> (try split) <;> (try split) <;> rfl
@[simp] theorem State.consult_epoch (s : State) : (s.consult).epoch = s.epoch := by
  unfold State.consult; split <;> (try split) <;> (try split) <;> rfl
@[simp] theorem State.consult_images (s : State) : (s.consult).images = s.images := by
  unfold State.consult; split <;> (try split) <;> (try split) <;> rfl
@[simp] theorem State.consult_supply (s : State) : (s.consult).supply = s.supply := by
  unfold State.consult; split <;> (try split) <;> (try split) <;> rfl
@[simp] theorem State.consult_status (s : State) : (s.consult).status = s.status := by
  unfold State.consult; split <;> (try split) <;> (try split) <;> rfl
@[simp] theorem State.consult_ports (s : State) : (s.consult).ports = s.ports := by
  unfold State.consult; split <;> (try split) <;> (try split) <;> rfl

@[simp] theorem State.endClaim_pending (s : State) : (s.endClaim).pending = s.pending := by
  simp [State.endClaim]
@[simp] theorem State.endClaim_now (s : State) : (s.endClaim).now = s.now := by
  simp [State.endClaim]
@[simp] theorem State.endClaim_phase (s : State) : (s.endClaim).phase = s.phase := by
  simp [State.endClaim]
@[simp] theorem State.endClaim_sequencer (s : State) : (s.endClaim).sequencer = s.sequencer := by
  simp [State.endClaim]
@[simp] theorem State.endClaim_trackers (s : State) : (s.endClaim).trackers = s.trackers := by
  simp [State.endClaim]
@[simp] theorem State.endClaim_terms (s : State) : (s.endClaim).terms = s.terms := by
  simp [State.endClaim]
@[simp] theorem State.endClaim_delivery (s : State) : (s.endClaim).delivery = s.delivery := by
  simp [State.endClaim]
@[simp] theorem State.endClaim_lease (s : State) : (s.endClaim).lease = s.lease := by
  simp [State.endClaim]
@[simp] theorem State.endClaim_restartDelay (s : State) : (s.endClaim).restartDelay = s.restartDelay := by
  simp [State.endClaim]
@[simp] theorem State.endClaim_active (s : State) : (s.endClaim).active = s.active := by
  simp [State.endClaim]
@[simp] theorem State.endClaim_epoch (s : State) : (s.endClaim).epoch = s.epoch := by
  simp [State.endClaim]
@[simp] theorem State.endClaim_images (s : State) : (s.endClaim).images = s.images := by
  simp [State.endClaim]
@[simp] theorem State.endClaim_supply (s : State) : (s.endClaim).supply = s.supply := by
  simp [State.endClaim]
@[simp] theorem State.endClaim_status (s : State) : (s.endClaim).status = s.status := by
  simp [State.endClaim]
@[simp] theorem State.endClaim_ports (s : State) : (s.endClaim).ports = s.ports := by
  simp [State.endClaim]

@[simp] theorem State.closeSweep_pending (s : State) : (s.closeSweep).pending = s.pending := by
  simp [State.closeSweep]
@[simp] theorem State.closeSweep_now (s : State) : (s.closeSweep).now = s.now := by
  simp [State.closeSweep]
@[simp] theorem State.closeSweep_phase (s : State) : (s.closeSweep).phase = s.phase := by
  simp [State.closeSweep]
@[simp] theorem State.closeSweep_unit (s : State) : (s.closeSweep).unit = s.unit := by
  simp [State.closeSweep]
@[simp] theorem State.closeSweep_trackers (s : State) : (s.closeSweep).trackers = s.trackers := by
  simp [State.closeSweep]
@[simp] theorem State.closeSweep_fresh (s : State) : (s.closeSweep).fresh = s.fresh := by
  simp [State.closeSweep]
@[simp] theorem State.closeSweep_lease (s : State) : (s.closeSweep).lease = s.lease := by
  simp [State.closeSweep]
@[simp] theorem State.closeSweep_restartDelay (s : State) : (s.closeSweep).restartDelay = s.restartDelay := by
  simp [State.closeSweep]
@[simp] theorem State.closeSweep_active (s : State) : (s.closeSweep).active = s.active := by
  simp [State.closeSweep]
@[simp] theorem State.closeSweep_epoch (s : State) : (s.closeSweep).epoch = s.epoch := by
  simp [State.closeSweep]
@[simp] theorem State.closeSweep_images (s : State) : (s.closeSweep).images = s.images := by
  simp [State.closeSweep]
@[simp] theorem State.closeSweep_supply (s : State) : (s.closeSweep).supply = s.supply := by
  simp [State.closeSweep]
@[simp] theorem State.closeSweep_ports (s : State) : (s.closeSweep).ports = s.ports := by
  simp [State.closeSweep]

@[simp] theorem State.placeOrClose_pending (s : State) (o : Option ChannelId) : (s.placeOrClose o).pending = s.pending := by
  unfold State.placeOrClose; split <;> simp
@[simp] theorem State.placeOrClose_now (s : State) (o : Option ChannelId) : (s.placeOrClose o).now = s.now := by
  unfold State.placeOrClose; split <;> simp
@[simp] theorem State.placeOrClose_phase (s : State) (o : Option ChannelId) : (s.placeOrClose o).phase = s.phase := by
  unfold State.placeOrClose; split <;> simp
@[simp] theorem State.placeOrClose_unit (s : State) (o : Option ChannelId) : (s.placeOrClose o).unit = s.unit := by
  unfold State.placeOrClose; split <;> simp
@[simp] theorem State.placeOrClose_trackers (s : State) (o : Option ChannelId) : (s.placeOrClose o).trackers = s.trackers := by
  unfold State.placeOrClose; split <;> simp
@[simp] theorem State.placeOrClose_fresh (s : State) (o : Option ChannelId) : (s.placeOrClose o).fresh = s.fresh := by
  unfold State.placeOrClose; split <;> simp
@[simp] theorem State.placeOrClose_lease (s : State) (o : Option ChannelId) : (s.placeOrClose o).lease = s.lease := by
  unfold State.placeOrClose; split <;> simp
@[simp] theorem State.placeOrClose_restartDelay (s : State) (o : Option ChannelId) : (s.placeOrClose o).restartDelay = s.restartDelay := by
  unfold State.placeOrClose; split <;> simp
@[simp] theorem State.placeOrClose_active (s : State) (o : Option ChannelId) : (s.placeOrClose o).active = s.active := by
  unfold State.placeOrClose; split <;> simp
@[simp] theorem State.placeOrClose_epoch (s : State) (o : Option ChannelId) : (s.placeOrClose o).epoch = s.epoch := by
  unfold State.placeOrClose; split <;> simp
@[simp] theorem State.placeOrClose_images (s : State) (o : Option ChannelId) : (s.placeOrClose o).images = s.images := by
  unfold State.placeOrClose; split <;> simp
@[simp] theorem State.placeOrClose_supply (s : State) (o : Option ChannelId) : (s.placeOrClose o).supply = s.supply := by
  unfold State.placeOrClose; split <;> simp
@[simp] theorem State.placeOrClose_ports (s : State) (o : Option ChannelId) : (s.placeOrClose o).ports = s.ports := by
  unfold State.placeOrClose; split <;> simp

@[simp] theorem State.sequencerActs_pending (s : State) (claim : BitVec 32) : (s.sequencerActs claim).pending = s.pending := by
  unfold State.sequencerActs; split <;> (try split) <;> simp
@[simp] theorem State.sequencerActs_now (s : State) (claim : BitVec 32) : (s.sequencerActs claim).now = s.now := by
  unfold State.sequencerActs; split <;> (try split) <;> simp
@[simp] theorem State.sequencerActs_phase (s : State) (claim : BitVec 32) : (s.sequencerActs claim).phase = s.phase := by
  unfold State.sequencerActs; split <;> (try split) <;> simp
@[simp] theorem State.sequencerActs_unit (s : State) (claim : BitVec 32) : (s.sequencerActs claim).unit = s.unit := by
  unfold State.sequencerActs; split <;> (try split) <;> simp
@[simp] theorem State.sequencerActs_trackers (s : State) (claim : BitVec 32) : (s.sequencerActs claim).trackers = s.trackers := by
  unfold State.sequencerActs; split <;> (try split) <;> simp
@[simp] theorem State.sequencerActs_fresh (s : State) (claim : BitVec 32) : (s.sequencerActs claim).fresh = s.fresh := by
  unfold State.sequencerActs; split <;> (try split) <;> simp
@[simp] theorem State.sequencerActs_lease (s : State) (claim : BitVec 32) : (s.sequencerActs claim).lease = s.lease := by
  unfold State.sequencerActs; split <;> (try split) <;> simp
@[simp] theorem State.sequencerActs_restartDelay (s : State) (claim : BitVec 32) : (s.sequencerActs claim).restartDelay = s.restartDelay := by
  unfold State.sequencerActs; split <;> (try split) <;> simp
@[simp] theorem State.sequencerActs_active (s : State) (claim : BitVec 32) : (s.sequencerActs claim).active = s.active := by
  unfold State.sequencerActs; split <;> (try split) <;> simp
@[simp] theorem State.sequencerActs_epoch (s : State) (claim : BitVec 32) : (s.sequencerActs claim).epoch = s.epoch := by
  unfold State.sequencerActs; split <;> (try split) <;> simp
@[simp] theorem State.sequencerActs_images (s : State) (claim : BitVec 32) : (s.sequencerActs claim).images = s.images := by
  unfold State.sequencerActs; split <;> (try split) <;> simp
@[simp] theorem State.sequencerActs_supply (s : State) (claim : BitVec 32) : (s.sequencerActs claim).supply = s.supply := by
  unfold State.sequencerActs; split <;> (try split) <;> simp
@[simp] theorem State.sequencerActs_ports (s : State) (claim : BitVec 32) : (s.sequencerActs claim).ports = s.ports := by
  unfold State.sequencerActs; split <;> (try split) <;> simp

@[simp] theorem State.completeFresh_pending (s : State) (n : ChannelId) (r : SampleResult) : (s.completeFresh n r).pending = s.pending := rfl
@[simp] theorem State.completeFresh_now (s : State) (n : ChannelId) (r : SampleResult) : (s.completeFresh n r).now = s.now := rfl
@[simp] theorem State.completeFresh_phase (s : State) (n : ChannelId) (r : SampleResult) : (s.completeFresh n r).phase = s.phase := rfl
@[simp] theorem State.completeFresh_unit (s : State) (n : ChannelId) (r : SampleResult) : (s.completeFresh n r).unit = s.unit := rfl
@[simp] theorem State.completeFresh_sequencer (s : State) (n : ChannelId) (r : SampleResult) : (s.completeFresh n r).sequencer = s.sequencer := rfl
@[simp] theorem State.completeFresh_trackers (s : State) (n : ChannelId) (r : SampleResult) : (s.completeFresh n r).trackers = s.trackers := rfl
@[simp] theorem State.completeFresh_terms (s : State) (n : ChannelId) (r : SampleResult) : (s.completeFresh n r).terms = s.terms := rfl
@[simp] theorem State.completeFresh_delivery (s : State) (n : ChannelId) (r : SampleResult) : (s.completeFresh n r).delivery = s.delivery := rfl
@[simp] theorem State.completeFresh_lease (s : State) (n : ChannelId) (r : SampleResult) : (s.completeFresh n r).lease = s.lease := rfl
@[simp] theorem State.completeFresh_restartDelay (s : State) (n : ChannelId) (r : SampleResult) : (s.completeFresh n r).restartDelay = s.restartDelay := rfl
@[simp] theorem State.completeFresh_active (s : State) (n : ChannelId) (r : SampleResult) : (s.completeFresh n r).active = s.active := rfl
@[simp] theorem State.completeFresh_epoch (s : State) (n : ChannelId) (r : SampleResult) : (s.completeFresh n r).epoch = s.epoch := rfl
@[simp] theorem State.completeFresh_images (s : State) (n : ChannelId) (r : SampleResult) : (s.completeFresh n r).images = s.images := rfl
@[simp] theorem State.completeFresh_supply (s : State) (n : ChannelId) (r : SampleResult) : (s.completeFresh n r).supply = s.supply := rfl
@[simp] theorem State.completeFresh_status (s : State) (n : ChannelId) (r : SampleResult) : (s.completeFresh n r).status = s.status := rfl
@[simp] theorem State.completeFresh_ports (s : State) (n : ChannelId) (r : SampleResult) : (s.completeFresh n r).ports = s.ports := rfl

@[simp] theorem State.completeOffSamples_pending (s : State) : (s.completeOffSamples).pending = s.pending := rfl
@[simp] theorem State.completeOffSamples_now (s : State) : (s.completeOffSamples).now = s.now := rfl
@[simp] theorem State.completeOffSamples_phase (s : State) : (s.completeOffSamples).phase = s.phase := rfl
@[simp] theorem State.completeOffSamples_unit (s : State) : (s.completeOffSamples).unit = s.unit := rfl
@[simp] theorem State.completeOffSamples_sequencer (s : State) : (s.completeOffSamples).sequencer = s.sequencer := rfl
@[simp] theorem State.completeOffSamples_trackers (s : State) : (s.completeOffSamples).trackers = s.trackers := rfl
@[simp] theorem State.completeOffSamples_terms (s : State) : (s.completeOffSamples).terms = s.terms := rfl
@[simp] theorem State.completeOffSamples_delivery (s : State) : (s.completeOffSamples).delivery = s.delivery := rfl
@[simp] theorem State.completeOffSamples_lease (s : State) : (s.completeOffSamples).lease = s.lease := rfl
@[simp] theorem State.completeOffSamples_restartDelay (s : State) : (s.completeOffSamples).restartDelay = s.restartDelay := rfl
@[simp] theorem State.completeOffSamples_active (s : State) : (s.completeOffSamples).active = s.active := rfl
@[simp] theorem State.completeOffSamples_epoch (s : State) : (s.completeOffSamples).epoch = s.epoch := rfl
@[simp] theorem State.completeOffSamples_images (s : State) : (s.completeOffSamples).images = s.images := rfl
@[simp] theorem State.completeOffSamples_supply (s : State) : (s.completeOffSamples).supply = s.supply := rfl
@[simp] theorem State.completeOffSamples_status (s : State) : (s.completeOffSamples).status = s.status := rfl
@[simp] theorem State.completeOffSamples_ports (s : State) : (s.completeOffSamples).ports = s.ports := rfl

@[simp] theorem State.freeSample_pending (s : State) (p : Port) (tag : Byte) : (s.freeSample p tag).pending = s.pending := rfl
@[simp] theorem State.freeSample_now (s : State) (p : Port) (tag : Byte) : (s.freeSample p tag).now = s.now := rfl
@[simp] theorem State.freeSample_phase (s : State) (p : Port) (tag : Byte) : (s.freeSample p tag).phase = s.phase := rfl
@[simp] theorem State.freeSample_unit (s : State) (p : Port) (tag : Byte) : (s.freeSample p tag).unit = s.unit := rfl
@[simp] theorem State.freeSample_sequencer (s : State) (p : Port) (tag : Byte) : (s.freeSample p tag).sequencer = s.sequencer := rfl
@[simp] theorem State.freeSample_trackers (s : State) (p : Port) (tag : Byte) : (s.freeSample p tag).trackers = s.trackers := rfl
@[simp] theorem State.freeSample_terms (s : State) (p : Port) (tag : Byte) : (s.freeSample p tag).terms = s.terms := rfl
@[simp] theorem State.freeSample_delivery (s : State) (p : Port) (tag : Byte) : (s.freeSample p tag).delivery = s.delivery := rfl
@[simp] theorem State.freeSample_lease (s : State) (p : Port) (tag : Byte) : (s.freeSample p tag).lease = s.lease := rfl
@[simp] theorem State.freeSample_restartDelay (s : State) (p : Port) (tag : Byte) : (s.freeSample p tag).restartDelay = s.restartDelay := rfl
@[simp] theorem State.freeSample_active (s : State) (p : Port) (tag : Byte) : (s.freeSample p tag).active = s.active := rfl
@[simp] theorem State.freeSample_epoch (s : State) (p : Port) (tag : Byte) : (s.freeSample p tag).epoch = s.epoch := rfl
@[simp] theorem State.freeSample_images (s : State) (p : Port) (tag : Byte) : (s.freeSample p tag).images = s.images := rfl
@[simp] theorem State.freeSample_supply (s : State) (p : Port) (tag : Byte) : (s.freeSample p tag).supply = s.supply := rfl
@[simp] theorem State.freeSample_status (s : State) (p : Port) (tag : Byte) : (s.freeSample p tag).status = s.status := rfl
@[simp] theorem State.freeSample_ports (s : State) (p : Port) (tag : Byte) : (s.freeSample p tag).ports = s.ports := rfl

@[simp] theorem State.stage_pending (s : State) (f : Configuration → Configuration) : (s.stage f).pending = s.pending := by
  unfold State.stage; split <;> rfl
@[simp] theorem State.stage_now (s : State) (f : Configuration → Configuration) : (s.stage f).now = s.now := by
  unfold State.stage; split <;> rfl
@[simp] theorem State.stage_phase (s : State) (f : Configuration → Configuration) : (s.stage f).phase = s.phase := by
  unfold State.stage; split <;> rfl
@[simp] theorem State.stage_unit (s : State) (f : Configuration → Configuration) : (s.stage f).unit = s.unit := by
  unfold State.stage; split <;> rfl
@[simp] theorem State.stage_sequencer (s : State) (f : Configuration → Configuration) : (s.stage f).sequencer = s.sequencer := by
  unfold State.stage; split <;> rfl
@[simp] theorem State.stage_trackers (s : State) (f : Configuration → Configuration) : (s.stage f).trackers = s.trackers := by
  unfold State.stage; split <;> rfl
@[simp] theorem State.stage_terms (s : State) (f : Configuration → Configuration) : (s.stage f).terms = s.terms := by
  unfold State.stage; split <;> rfl
@[simp] theorem State.stage_delivery (s : State) (f : Configuration → Configuration) : (s.stage f).delivery = s.delivery := by
  unfold State.stage; split <;> rfl
@[simp] theorem State.stage_fresh (s : State) (f : Configuration → Configuration) : (s.stage f).fresh = s.fresh := by
  unfold State.stage; split <;> rfl
@[simp] theorem State.stage_restartDelay (s : State) (f : Configuration → Configuration) : (s.stage f).restartDelay = s.restartDelay := by
  unfold State.stage; split <;> rfl
@[simp] theorem State.stage_active (s : State) (f : Configuration → Configuration) : (s.stage f).active = s.active := by
  unfold State.stage; split <;> rfl
@[simp] theorem State.stage_epoch (s : State) (f : Configuration → Configuration) : (s.stage f).epoch = s.epoch := by
  unfold State.stage; split <;> rfl
@[simp] theorem State.stage_images (s : State) (f : Configuration → Configuration) : (s.stage f).images = s.images := by
  unfold State.stage; split <;> rfl
@[simp] theorem State.stage_supply (s : State) (f : Configuration → Configuration) : (s.stage f).supply = s.supply := by
  unfold State.stage; split <;> rfl
@[simp] theorem State.stage_status (s : State) (f : Configuration → Configuration) : (s.stage f).status = s.status := by
  unfold State.stage; split <;> rfl
@[simp] theorem State.stage_ports (s : State) (f : Configuration → Configuration) : (s.stage f).ports = s.ports := by
  unfold State.stage; split <;> rfl

@[simp] theorem State.applyPolarities_pending (s : State) : (s.applyPolarities).pending = s.pending := foldl_keeps State.pending _ (by simp) _ s
@[simp] theorem State.applyPolarities_now (s : State) : (s.applyPolarities).now = s.now := foldl_keeps State.now _ (by simp) _ s
@[simp] theorem State.applyPolarities_phase (s : State) : (s.applyPolarities).phase = s.phase := foldl_keeps State.phase _ (by simp) _ s
@[simp] theorem State.applyPolarities_unit (s : State) : (s.applyPolarities).unit = s.unit := foldl_keeps State.unit _ (by simp) _ s
@[simp] theorem State.applyPolarities_sequencer (s : State) : (s.applyPolarities).sequencer = s.sequencer := foldl_keeps State.sequencer _ (by simp) _ s
@[simp] theorem State.applyPolarities_trackers (s : State) : (s.applyPolarities).trackers = s.trackers := foldl_keeps State.trackers _ (by simp) _ s
@[simp] theorem State.applyPolarities_terms (s : State) : (s.applyPolarities).terms = s.terms := foldl_keeps State.terms _ (by simp) _ s
@[simp] theorem State.applyPolarities_fresh (s : State) : (s.applyPolarities).fresh = s.fresh := foldl_keeps State.fresh _ (by simp) _ s
@[simp] theorem State.applyPolarities_lease (s : State) : (s.applyPolarities).lease = s.lease := foldl_keeps State.lease _ (by simp) _ s
@[simp] theorem State.applyPolarities_restartDelay (s : State) : (s.applyPolarities).restartDelay = s.restartDelay := foldl_keeps State.restartDelay _ (by simp) _ s
@[simp] theorem State.applyPolarities_active (s : State) : (s.applyPolarities).active = s.active := foldl_keeps State.active _ (by simp) _ s
@[simp] theorem State.applyPolarities_epoch (s : State) : (s.applyPolarities).epoch = s.epoch := foldl_keeps State.epoch _ (by simp) _ s
@[simp] theorem State.applyPolarities_images (s : State) : (s.applyPolarities).images = s.images := foldl_keeps State.images _ (by simp) _ s
@[simp] theorem State.applyPolarities_supply (s : State) : (s.applyPolarities).supply = s.supply := foldl_keeps State.supply _ (by simp) _ s
@[simp] theorem State.applyPolarities_status (s : State) : (s.applyPolarities).status = s.status := foldl_keeps State.status _ (by simp) _ s
@[simp] theorem State.applyPolarities_ports (s : State) : (s.applyPolarities).ports = s.ports := foldl_keeps State.ports _ (by simp) _ s

@[simp] theorem State.countSkip_pending (s : State) : (s.countSkip).pending = s.pending := rfl
@[simp] theorem State.countSkip_now (s : State) : (s.countSkip).now = s.now := rfl
@[simp] theorem State.countSkip_phase (s : State) : (s.countSkip).phase = s.phase := rfl
@[simp] theorem State.countSkip_unit (s : State) : (s.countSkip).unit = s.unit := rfl
@[simp] theorem State.countSkip_sequencer (s : State) : (s.countSkip).sequencer = s.sequencer := rfl
@[simp] theorem State.countSkip_trackers (s : State) : (s.countSkip).trackers = s.trackers := rfl
@[simp] theorem State.countSkip_terms (s : State) : (s.countSkip).terms = s.terms := rfl
@[simp] theorem State.countSkip_delivery (s : State) : (s.countSkip).delivery = s.delivery := rfl
@[simp] theorem State.countSkip_fresh (s : State) : (s.countSkip).fresh = s.fresh := rfl
@[simp] theorem State.countSkip_lease (s : State) : (s.countSkip).lease = s.lease := rfl
@[simp] theorem State.countSkip_restartDelay (s : State) : (s.countSkip).restartDelay = s.restartDelay := rfl
@[simp] theorem State.countSkip_active (s : State) : (s.countSkip).active = s.active := rfl
@[simp] theorem State.countSkip_epoch (s : State) : (s.countSkip).epoch = s.epoch := rfl
@[simp] theorem State.countSkip_images (s : State) : (s.countSkip).images = s.images := rfl
@[simp] theorem State.countSkip_supply (s : State) : (s.countSkip).supply = s.supply := rfl
@[simp] theorem State.countSkip_ports (s : State) : (s.countSkip).ports = s.ports := rfl

@[simp] theorem State.markDisturbed_pending (s : State) : (s.markDisturbed).pending = s.pending := rfl
@[simp] theorem State.markDisturbed_now (s : State) : (s.markDisturbed).now = s.now := rfl
@[simp] theorem State.markDisturbed_phase (s : State) : (s.markDisturbed).phase = s.phase := rfl
@[simp] theorem State.markDisturbed_sequencer (s : State) : (s.markDisturbed).sequencer = s.sequencer := rfl
@[simp] theorem State.markDisturbed_trackers (s : State) : (s.markDisturbed).trackers = s.trackers := rfl
@[simp] theorem State.markDisturbed_terms (s : State) : (s.markDisturbed).terms = s.terms := rfl
@[simp] theorem State.markDisturbed_delivery (s : State) : (s.markDisturbed).delivery = s.delivery := rfl
@[simp] theorem State.markDisturbed_fresh (s : State) : (s.markDisturbed).fresh = s.fresh := rfl
@[simp] theorem State.markDisturbed_lease (s : State) : (s.markDisturbed).lease = s.lease := rfl
@[simp] theorem State.markDisturbed_restartDelay (s : State) : (s.markDisturbed).restartDelay = s.restartDelay := rfl
@[simp] theorem State.markDisturbed_active (s : State) : (s.markDisturbed).active = s.active := rfl
@[simp] theorem State.markDisturbed_epoch (s : State) : (s.markDisturbed).epoch = s.epoch := rfl
@[simp] theorem State.markDisturbed_images (s : State) : (s.markDisturbed).images = s.images := rfl
@[simp] theorem State.markDisturbed_supply (s : State) : (s.markDisturbed).supply = s.supply := rfl
@[simp] theorem State.markDisturbed_status (s : State) : (s.markDisturbed).status = s.status := rfl
@[simp] theorem State.markDisturbed_ports (s : State) : (s.markDisturbed).ports = s.ports := rfl

end Sys2Proof.Machine
end

