-- ==== Sys2Proof/Laws/Requests.lean ====
section
/-! SUPPORT. What the taking of a request, an event of the running hub and a field-range gate can do, each said once. -/

namespace Sys2Proof.Machine

/-- Everything a request can do (10 R175, R176; 08 R131; 09 R159). -/
theorem State.request_cases {s t : State} {p : Port} {tag : Byte} {g : Gates} {block : State → State × Reply}
    (h : s.request p tag g block = .next t) :
    (s.phase ≠ .running ∧ t = s) ∨
    (s.phase = .running ∧ ∃ r, (s.restartLeaseTimer p).gateRefusal p g = some r ∧
      t = (s.restartLeaseTimer p).answer p tag r) ∨
    (s.phase = .running ∧ (s.restartLeaseTimer p).gateRefusal p g = none ∧
      t = (block (s.restartLeaseTimer p)).1.answer p tag (block (s.restartLeaseTimer p)).2) := by
  unfold State.request at h
  split at h
  · rename_i hp; left; exact ⟨by simp [hp], by cases h; rfl⟩
  · rename_i hp; left; exact ⟨by simp [hp], by cases h; rfl⟩
  · rename_i hp
    right
    dsimp only at h
    split at h
    · rename_i r hr; left; exact ⟨hp, r, hr, by cases h; rfl⟩
    · rename_i hr; right; exact ⟨hp, hr, by cases h; rfl⟩

/-- A request always completes. -/
theorem State.request_next (s : State) (p : Port) (tag : Byte) (g : Gates) (block : State → State × Reply) :
    ∃ t, s.request p tag g block = .next t := by
  unfold State.request
  split
  · exact ⟨_, rfl⟩
  · exact ⟨_, rfl⟩
  · dsimp only
    split <;> exact ⟨_, rfl⟩

/-- A property that the lease timer's restart, the answer and the block keep is kept by the request. -/
theorem State.request_keeps {I : State → Prop} {s t : State} {p : Port} {tag : Byte} {g : Gates}
    {block : State → State × Reply} (h : s.request p tag g block = .next t) (hI : I s)
    (hr : ∀ s, I s → I (s.restartLeaseTimer p)) (ha : ∀ s r, I s → I (s.answer p tag r))
    (hb : ∀ s, s.phase = .running → s.gateRefusal p g = none → I s → I (block s).1) : I t := by
  rcases State.request_cases h with ⟨_, rfl⟩ | ⟨_, r, _, rfl⟩ | ⟨hp, hg, rfl⟩
  · exact hI
  · exact ha _ _ (hr _ hI)
  · exact ha _ _ (hb _ (by simpa using hp) hg (hr _ hI))

/-- Everything the field-range gate can do (10 R175). -/
theorem rangeGate_cases (fields : List (Nat × Bool)) (block : State → State × Reply) (s : State) :
    (∃ offset, firstBad fields = some offset ∧ rangeGate fields block s = (s, .badValue offset)) ∨
    (firstBad fields = none ∧ rangeGate fields block s = block s) := by
  unfold rangeGate
  split
  · rename_i o ho; exact .inl ⟨o, ho, rfl⟩
  · rename_i ho; exact .inr ⟨ho, rfl⟩

/-- Everything an event of the running hub can do (09 R159). -/
theorem State.whileRunning_cases {s t : State} {f : State → State} (h : s.whileRunning f = .next t) :
    (s.phase ≠ .running ∧ t = s) ∨ (s.phase = .running ∧ t = f s) := by
  unfold State.whileRunning at h
  split at h
  · rename_i hp; exact .inl ⟨by simp [hp], by cases h; rfl⟩
  · rename_i hp; exact .inl ⟨by simp [hp], by cases h; rfl⟩
  · rename_i hp; exact .inr ⟨hp, by cases h; rfl⟩

/-- An event always completes. -/
theorem State.whileRunning_next (s : State) (f : State → State) : ∃ t, s.whileRunning f = .next t := by
  unfold State.whileRunning
  split <;> exact ⟨_, rfl⟩

/-- The fields of the field-range gate are all in range exactly when none is reported. -/
theorem firstBad_eq_none (fields : List (Nat × Bool)) : firstBad fields = none ↔ ∀ x ∈ fields, x.2 = true := by
  induction fields with
  | nil => simp [firstBad]
  | cons x xs ih =>
    obtain ⟨o, b⟩ := x
    cases b <;> simp [firstBad, ih]

/-- A check list passes exactly when every check holds. -/
theorem firstFailing_eq_none {α : Type} (l : List (α × Bool)) : firstFailing l = none ↔ ∀ x ∈ l, x.2 = true := by
  induction l with
  | nil => simp [firstFailing]
  | cons x xs ih =>
    obtain ⟨o, b⟩ := x
    cases b <;> simp [firstFailing, ih]

/-- What passed the session gate. -/
theorem State.gateRefusal_session {s : State} {p : Port} {g : Gates} (h : s.gateRefusal p g = none)
    (hg : g.session = true) : ∃ se, (s.delivery.get p).session = some se := by
  unfold State.gateRefusal at h
  rw [hg] at h
  simp only [Bool.true_and] at h
  split at h
  · simp at h
  · rename_i hs; exact Option.ne_none_iff_exists'.1 (by simpa using hs)

/-- What passed the lease gate as the holder: the lease is HELD by the port (08 R139). -/
theorem State.gateRefusal_held {s : State} {p : Port} (h : s.gateRefusal p .holder = none) :
    ∃ staging dirty expiry, s.lease = .held p staging dirty expiry := by
  unfold State.gateRefusal Gates.holder State.leaseRefusal at h
  dsimp only at h
  split at h
  · simp at h
  · split at h
    · simp at h
    · rename_i hl
      split at h
      · rename_i e; subst e; exact ⟨_, _, _, hl⟩
      · simp at h
    · split at h <;> simp at h

/-- What passed the lease gate of READ_STAGING: a lease that is not FREE, held by the port (08 R139). -/
theorem State.gateRefusal_reading {s : State} {p : Port} (h : s.gateRefusal p .holderReading = none) :
    s.lease ≠ .free := by
  unfold State.gateRefusal Gates.holderReading State.leaseRefusal at h
  dsimp only at h
  split at h
  · simp at h
  · split at h
    · simp at h
    · rename_i hl; simp [hl]
    · rename_i hl; simp [hl]

/-- The restart of the lease timer, as `State.took` says it. -/
theorem State.restartLeaseTimer_took (s : State) (p : Port) : s.restartLeaseTimer p = s.took p := by
  obtain ⟨pending, now, phase, unit, sequencer, trackers, terms, delivery, fresh, lease, restartDelay, active, epoch, images,
    supply, status, ports⟩ := s
  rcases lease with _ | ⟨h, staging, dirty, expiry⟩ | ⟨h, staging, dirty⟩
  · rfl
  · by_cases hp : h = p
    · simp [State.restartLeaseTimer, State.took, State.leaseAfter, hp, State.setLease, State.leaseTime, milliseconds]
    · simp [State.restartLeaseTimer, State.took, State.leaseAfter, hp]
  · rfl

/-- An event of the running hub. -/
theorem State.whileRunning_running {s : State} {f : State → State} (hp : s.phase = .running) :
    s.whileRunning f = .next (f s) := by
  unfold State.whileRunning; rw [hp]

/-- A request that any port may send, on the running hub. -/
theorem State.request_anyPort {s : State} {p : Port} {tag : Byte} {block : State → State × Reply}
    (hp : s.phase = .running) :
    s.request p tag .anyPort block =
      .next ((block (s.took p)).1.holding p (block (s.took p)).2.status tag (block (s.took p)).2.payload) := by
  unfold State.request; rw [hp]; dsimp only
  rw [State.restartLeaseTimer_took]
  rfl

/-- A request that any open session may send, on a port that is served. -/
theorem State.request_anySession {s : State} {p : Port} {tag : Byte} {block : State → State × Reply}
    (hs : s.serves p) :
    s.request p tag .anySession block =
      .next ((block (s.took p)).1.holding p (block (s.took p)).2.status tag (block (s.took p)).2.payload) := by
  unfold State.request; rw [hs.1]; dsimp only
  rw [State.restartLeaseTimer_took]
  obtain ⟨se, hse⟩ := hs.2
  have : (s.took p).gateRefusal p .anySession = none := by
    simp [State.gateRefusal, Gates.anySession, State.leaseRefusal, State.took, hse]
  rw [this]
  rfl

/-- A lease-gated request, on the holder's port in HELD. -/
theorem State.request_holder {s : State} {p : Port} {tag : Byte} {block : State → State × Reply} (hs : s.holds p) :
    s.request p tag .holder block =
      .next ((block (s.took p)).1.holding p (block (s.took p)).2.status tag (block (s.took p)).2.payload) := by
  unfold State.request; rw [hs.1.1]; dsimp only
  rw [State.restartLeaseTimer_took]
  obtain ⟨se, hse⟩ := hs.1.2
  obtain ⟨st, d, e, hl⟩ := hs.2
  have : (s.took p).gateRefusal p .holder = none := by
    simp [State.gateRefusal, Gates.holder, State.leaseRefusal, State.took, hse, State.leaseAfter, hl]
  rw [this]
  rfl

end Sys2Proof.Machine
end

