-- ==== Sys2Proof/Laws/Steps.lean ====
section
/-! SUPPORT. What a step can do, said once: a property that every effect listed in `Keeps` keeps is kept by every command
(`Keeps.exec`) and by every step (`Keeps.step`). An invariant is proved by giving its `Keeps`. -/

namespace Sys2Proof.Machine

/-- The effects that the commands are made of, each with what is known where it is made. -/
structure Keeps (I : State → Prop) : Prop where
  now : ∀ s x, I s → I (s.setNow x)
  lease : ∀ s p, I s → I (s.restartLeaseTimer p)
  hold : ∀ s p r, s.phase = .running → I s → I (s.hold p r)
  counters : ∀ s c, I s → I (s.setCounters c)
  opened : ∀ s p se, s.phase = .running → 1 ≤ se.threshold → se.threshold ≤ 32 →
    (se.rearm = match se.mode with | .level => none | .pulse => some .armed) → I s → I (s.opened p se)
  closed : ∀ s p, s.phase = .running → I s → I (s.closed p)
  subscribed : ∀ s p se channels terms classes, s.phase = .running → (s.delivery.get p).session = some se → I s →
    I (s.setDeliveryOf p ((s.delivery.get p).subscribe channels terms classes))
  readOut : ∀ s p mode count, s.phase = .running → s.isOpen p → I s →
    I (s.setDeliveryOf p ((s.delivery.get p).readOut s.now mode count))
  acknowledged : ∀ s p sequence e, s.phase = .running → s.isOpen p →
    ((s.delivery.get p).queue.find? fun e => decide (e.sequence = sequence)) = some e → e.read = true → I s →
    I (s.acknowledge p sequence).1
  offered : ∀ s p r, I s → I (s.offerTo p r)
  granted : ∀ s p, s.phase = .running → s.isOpen p → s.commitWaiting = false → I s → I (s.grantTo p)
  freed : ∀ s, s.phase = .running → s.commitWaiting = false → I s → I (s.setLease .free)
  staged : ∀ s f h staging dirty expiry, s.phase = .running → s.lease = .held h staging dirty expiry →
    (configInRange staging = true → configInRange s.config = true → configInRange (f staging) = true) → I s →
    I (s.stage f)
  committing : ∀ s h staging expiry, s.phase = .running → s.lease = .held h staging true expiry →
    firstViolation staging = none → I s → I ((s.setLease (.committing (some h) staging true)).consult)
  sampled : ∀ s p n tag, s.phase = .running → s.isOpen p → tag ≠ 0 → s.sampleRefusal p n tag = none → I s →
    I (s.setFresh (s.fresh ++ [{ owner := p, tag := tag, channel := n, state := .waiting }])).consult
  unsampled : ∀ s p tag, I s → I (s.freeSample p tag)
  halted : ∀ s, s.phase = .running → I s → I s.halted
  resumed : ∀ s, s.phase = .running → I s → I s.resumed
  restarting : ∀ s x, s.phase = .running → I s → I (s.setRestartDelay x)
  storing : ∀ s p, s.phase = .running → s.images.store = none → s.images.newestGeneration ≠ some 4294967294#32 → I s →
    I (s.beginStore p)
  ended : ∀ s p, s.phase = .running → I s → I (s.setPort p (s.ports.get p).ended)
  begun : ∀ s p direction written, s.phase = .running → I s →
    I (s.setPort p ((s.ports.get p).begun direction written))
  disturbed : ∀ s, I s → I s.markDisturbed
  repeated : ∀ s m, s.phase = .running → s.unit = some m → I s → I (s.repeatMeasurement m)
  counted : ∀ s n raw inRange, s.phase = .running →
    (inRange = true → 1 ≤ raw ∧ raw + 2 ≤ 2 ^ (s.profile n).resolution) → I s → I (s.trackerTakes n raw inRange)
  sweepEnded : ∀ s m claim, s.phase = .running → s.unit = some m → m.kind = .sweep claim → I s →
    I (s.sequencerActs claim).endClaim
  freshEnded : ∀ s m r, s.phase = .running → s.unit = some m → m.kind = .fresh → I s →
    I (s.completeFresh m.channel r).endClaim
  freshLeft : ∀ s m, s.phase = .running → s.unit = some m → m.kind = .fresh → s.someMeasuring m.channel = false → I s →
    I s.endClaim
  ticked : ∀ s x, s.phase = .running → s.sequencer.nextTick ≠ none → I s →
    I (s.setSequencer { s.sequencer with nextTick := some x })
  swept : ∀ s, s.phase = .running → s.sequencer.run = .run → s.sequencer.position = none → s.commitWaiting = false →
    I s → I s.beginSweep
  commitPoint : ∀ s holder staging dirty, s.phase = .running → s.lease = .committing holder staging dirty →
    s.sequencer.position = none → s.unit = none → I s →
    I (((s.commitSteps staging).offerCommitted holder).settleLease holder).consult
  expired : ∀ s n expiry, s.phase = .running → (s.trackers.get n).holdTimer = .running expiry → I s →
    I (s.trackerMoves n ((s.trackers.get n).expireHold, some (.chRelease n .idle .holdLimit)))
  erased : ∀ s r now, s.phase = .running → s.images.store = some r → r.phase = .erasing → I s →
    I (s.setImages (s.images.erased r now))
  programmed : ∀ s r now, s.phase = .running → s.images.store = some r → r.phase = .programming → I s →
    I (s.setImages (s.images.programmed r now))
  verified : ∀ s r generation readBack, s.phase = .running → s.images.store = some r → r.phase = .verifying → I s →
    I (s.setImages { s.images.verified r generation readBack with
      store := none, lastResult := some (verifyResult r generation readBack) })
  aborted : ∀ s r, s.images.store = some r → I s →
    I (s.setImages { s.images.cutShort r with store := none, lastResult := some .supplyFail })
  supply : ∀ s x, I s → I (s.setSupply x)
  pulsed : ∀ s p t, s.phase = .running → (s.delivery.get p).line.pulseEnd = some t → I s →
    I (s.setDeliveryOf p { s.delivery.get p with line := (s.delivery.get p).line.quiet })
  reset : ∀ s cause, I s → I (s.beginReset cause)
  load : ∀ s straps, s.phase = .inReset → I s → I (s.beginLoad straps)
  startUp : ∀ s t cfg source, s.phase = .loading t → configValid cfg = true → I s → I (s.startUp cfg source)

namespace Keeps

variable {I : State → Prop} (K : Keeps I)
include K

theorem advance {s : State} (t : Nat) (h : I s) : I (s.advanceTo t) := K.now s _ h

theorem answer {s : State} {p : Port} {tag : Byte} (r : Reply) (hp : s.phase = .running) (h : I s) :
    I (s.answer p tag r) := K.hold s p _ hp h

/-- A request keeps the property if its block does. -/
theorem request {s t : State} {p : Port} {tag : Byte} {g : Gates} {block : State → State × Reply}
    (h : s.request p tag g block = .next t) (hI : I s)
    (hb : ∀ s, s.phase = .running → s.gateRefusal p g = none → I s →
      I (block s).1 ∧ (block s).1.phase = .running) : I t ∧ t.phase = s.phase := by
  rcases State.request_cases h with ⟨_, rfl⟩ | ⟨hp, r, _, rfl⟩ | ⟨hp, hg, rfl⟩
  · exact ⟨hI, rfl⟩
  · exact ⟨K.answer r (by simpa using hp) (K.lease _ _ hI), by simp⟩
  · have := hb _ (by simpa using hp) hg (K.lease _ _ hI)
    exact ⟨K.answer _ this.2 this.1, by simp [this.2, hp]⟩

/-- A request that changes nothing but its answer. -/
theorem reading {s t : State} {p : Port} {tag : Byte} {g : Gates} {block : State → State × Reply}
    (h : s.request p tag g block = .next t) (hI : I s) (hb : ∀ s, (block s).1 = s) : I t ∧ t.phase = s.phase :=
  K.request h hI fun s hp _ hs => by rw [hb s]; exact ⟨hs, hp⟩

end Keeps

/-- An event of the running hub keeps the property if its effect does. -/
theorem Keeps.event {I : State → Prop} {s t : State} {f : State → State} (h : s.whileRunning f = .next t) (hI : I s)
    (hb : s.phase = .running → I (f s)) : I t := by
  rcases State.whileRunning_cases h with ⟨_, rfl⟩ | ⟨hp, rfl⟩
  · exact hI
  · exact hb hp

/-! ### Staged writes keep every field in range (08 R140) -/

theorem configInRange_iff (cfg : Configuration) : configInRange cfg = true ↔
    (∀ n, profileInRange (cfg.channels.get n) = true) ∧
    (1 ≤ cfg.scanList.length ∧ cfg.scanList.length ≤ 24 ∧ ∀ n ∈ cfg.scanList, n < 24) ∧
    (∀ k, termInRange (cfg.terms.get k) = true) ∧ hubInRange cfg.hub = true ∧
    (∀ p, portInRange (cfg.ports.get p) = true) := by
  have hport : (∀ p ∈ Port.all, portInRange (cfg.ports.get p) = true) ↔ ∀ p, portInRange (cfg.ports.get p) = true :=
    ⟨fun h p => h p (by cases p <;> simp [Port.all]), fun h p _ => h p⟩
  simp only [configInRange, Bool.and_eq_true, List.all_eq_true, between, decide_eq_true_eq, ChannelId.all, TermId.all,
    List.mem_finRange, forall_const, hport]
  tauto

theorem profileOf_inRange {f : ChannelParams} (h : ∀ x ∈ channelFields f, x.2 = true) :
    profileInRange (profileOf f) = true := by
  simp [channelFields, between] at h
  simp_all [profileInRange, between, profileOf]

theorem offsetFields_all {first : Nat} {ok : Byte → Bool} {l : List Byte}
    (h : ∀ x ∈ offsetFields first ok l, x.2 = true) : ∀ b ∈ l, ok b = true := by
  induction l generalizing first with
  | nil => simp
  | cons b bs ih =>
    simp only [offsetFields, List.mem_cons, forall_eq_or_imp] at h
    intro x hx
    rcases List.mem_cons.1 hx with rfl | hx
    · exact h.1
    · exact ih h.2 x hx

theorem filterMap_length_of_isSome {α β : Type} (f : α → Option β) (l : List α) (h : ∀ a ∈ l, (f a).isSome = true) :
    (l.filterMap f).length = l.length := by
  induction l with
  | nil => rfl
  | cons a as ih =>
    obtain ⟨b, hb⟩ := Option.isSome_iff_exists.1 (h a (by simp))
    simp [hb, ih fun x hx => h x (by simp [hx])]

theorem definitionOf_inRange {d : TermParams} (h : ∀ x ∈ termFields d, x.2 = true) :
    termInRange (definitionOf d) = true := by
  have h1 := h (5, between 1 d.inputs.length 4) (by simp [termFields])
  have h2 := h (3, between 0 d.holdSweeps.toNat 63) (by simp [termFields])
  have h3 := h (4, between 0 d.window.toNat 63) (by simp [termFields])
  have h4 : ∀ b ∈ d.inputs, (source? b).isSome = true :=
    offsetFields_all (first := 6) (ok := fun b => (source? b).isSome) fun x hx => h x (by
      simp only [termFields, List.mem_append]; exact .inl (.inr hx))
  simp only [termInRange, definitionOf, filterMap_length_of_isSome _ _ h4, Bool.and_eq_true]
  exact ⟨⟨h1, h2⟩, h3⟩

theorem firstViolation_range {im : ImageStore} {x : SlotId × Configuration} (h : im.newest = some x) :
    configValid x.2 = true := by
  have hc : ∀ id c, im.validContent id = some c → configValid c = true := by
    intro id c hv
    unfold ImageStore.validContent at hv
    split at hv
    · cases hv
    · unfold Slot.content at hv
      split at hv
      · cases hv
      · split at hv
        · rename_i hh; cases hv; exact hh.2.2.2
        · cases hv
  unfold ImageStore.newest at h
  split at h
  · cases h
  · rename_i h0 _; cases h; exact hc _ _ h0
  · rename_i _ h1; cases h; exact hc _ _ h1
  · rename_i h0 h1
    split at h
    · cases h; exact hc _ _ h1
    · cases h; exact hc _ _ h0

/-- The first violation of a check list whose every check holds is none. -/
theorem firstFailing_append {α : Type} (l m : List (α × Bool)) (hl : firstFailing l = none) :
    firstFailing (l ++ m) = firstFailing m := by
  induction l with
  | nil => rfl
  | cons x xs ih =>
    obtain ⟨a, b⟩ := x
    cases b with
    | false => simp [firstFailing] at hl
    | true => simpa [firstFailing] using ih (by simpa [firstFailing] using hl)

/-! ### Every command -/

/-- A staged write that the gates let pass. -/
theorem Keeps.write {I : State → Prop} (K : Keeps I) {s : State} {p : Port} (hp : s.phase = .running)
    (hg : s.gateRefusal p .holder = none) (h : I s) (f : Configuration → Configuration)
    (hf : ∀ cfg, configInRange cfg = true → configInRange s.config = true → configInRange (f cfg) = true) :
    I (s.stagedWrite f).1 ∧ (s.stagedWrite f).1.phase = .running := by
  obtain ⟨staging, dirty, expiry, hl⟩ := State.gateRefusal_held hg
  exact ⟨K.staged s f p staging dirty expiry hp hl (hf staging) h, by simpa [State.stagedWrite] using hp⟩

/-- A write behind the field-range gate. -/
theorem Keeps.gated {I : State → Prop} {s : State} {fields : List (Nat × Bool)} {block : State → State × Reply}
    (hp : s.phase = .running) (h : I s)
    (hb : (∀ x ∈ fields, x.2 = true) → I (block s).1 ∧ (block s).1.phase = .running) :
    I (rangeGate fields block s).1 ∧ (rangeGate fields block s).1.phase = .running := by
  rcases rangeGate_cases fields block s with ⟨o, _, h2⟩ | ⟨hok, h2⟩ <;> rw [h2]
  · exact ⟨h, hp⟩
  · exact hb ((firstBad_eq_none _).1 hok)

theorem State.commitWaiting_held {s : State} {h : Port} {staging : Configuration} {dirty : Bool} {expiry : Nat}
    (hl : s.lease = .held h staging dirty expiry) : s.commitWaiting = false := by
  simp [State.commitWaiting, hl]

/-- A request keeps what its effects keep. -/
theorem Keeps.takeRequest {I : State → Prop} (K : Keeps I) (i : Instr) (s t : State) (hI : I s)
    (h : takeRequest i s = .next t) : I t ∧ t.phase = s.phase := by
  cases i <;> simp only [Sys2Proof.Machine.takeRequest] at h
  case openSession p tag ch tm cl md th =>
    refine K.request h hI fun s hp _ hs => Keeps.gated hp hs fun hok => ?_
    have h3 := hok (7, between 1 th.toNat 32) (by simp)
    simp only [between, Bool.and_eq_true, decide_eq_true_eq] at h3
    exact ⟨K.opened s p _ hp h3.1 h3.2 rfl hs, hp⟩
  case closeSession p tag => exact K.request h hI fun s hp _ hs => ⟨K.closed s p hp hs, hp⟩
  case subscribe p tag ch tm cl =>
    refine K.request h hI fun s hp hg hs => Keeps.gated hp hs fun _ => ?_
    obtain ⟨se, hse⟩ := State.gateRefusal_session hg rfl
    exact ⟨K.subscribed s p se _ _ _ hp hse hs, hp⟩
  case readEvents p tag c m =>
    refine K.request h hI fun s hp hg hs => Keeps.gated hp hs fun _ => ?_
    exact ⟨K.readOut s p _ _ hp (State.gateRefusal_session hg rfl) hs, hp⟩
  case ackEvents p tag q =>
    refine K.request h hI fun s hp hg hs => ?_
    split
    · exact ⟨hs, hp⟩
    · rename_i e he
      split
      · rename_i hr; exact ⟨K.acknowledged s p q e hp (State.gateRefusal_session hg rfl) he hr hs, hp⟩
      · exact ⟨hs, hp⟩
  case sample p tag c tg =>
    refine K.request h hI fun s hp hg hs => ?_
    split
    · exact ⟨hs, hp⟩
    · split
      · exact ⟨hs, hp⟩
      · rename_i ht
        split
        · exact ⟨hs, hp⟩
        · rename_i hr
          exact ⟨K.sampled s p _ tg hp (State.gateRefusal_session hg rfl) ht hr hs, by simpa using hp⟩
  case fetch p tag tg =>
    refine K.request h hI fun s hp _ hs => ?_
    split
    · exact ⟨hs, hp⟩
    · split
      · exact ⟨hs, hp⟩
      · split
        · exact ⟨hs, hp⟩
        · exact ⟨hs, hp⟩
        · exact ⟨K.unsampled s p tg hs, hp⟩
  case cancel p tag tg =>
    refine K.request h hI fun s hp _ hs => ?_
    split
    · exact ⟨hs, hp⟩
    · split
      · exact ⟨hs, hp⟩
      · exact ⟨K.unsampled s p tg hs, hp⟩
  case takeLease p tag b =>
    refine K.request h hI fun s hp hg hs => ?_
    have ho := State.gateRefusal_session hg rfl
    split
    · exact ⟨hs, hp⟩
    · unfold State.takeLease
      split
      · rename_i hl; exact ⟨K.granted s p hp ho (by simp [State.commitWaiting, hl]) hs, hp⟩
      · rename_i hd _ _ _ hl
        split
        · exact ⟨hs, hp⟩
        · rename_i hne
          split
          · have hp2 : (s.offerTo hd (.lease .preempted)).phase = .running := by simpa using hp
            refine ⟨K.granted _ p hp2 ?_ (by simp [State.commitWaiting, hl]) (K.offered _ _ _ hs), hp2⟩
            obtain ⟨se, hse⟩ := ho
            refine ⟨se, ?_⟩
            unfold State.offerTo
            dsimp only
            have hpne : p ≠ hd := fun e => hne e.symm
            split
            · exact hse
            · split
              · simpa [State.setDeliveryOf, PortMap.get_set_ne _ hpne] using hse
              · simpa [State.setDeliveryOf, PortMap.get_set_ne _ hpne] using hse
          · exact ⟨hs, hp⟩
      · split <;> exact ⟨hs, hp⟩
  case releaseLease p tag =>
    refine K.request h hI fun s hp hg hs => ?_
    obtain ⟨_, _, _, hl⟩ := State.gateRefusal_held hg
    exact ⟨K.freed s hp (State.commitWaiting_held hl) hs, hp⟩
  case setChannel p tag c f =>
    refine K.request h hI fun s hp hg hs => ?_
    split
    · exact ⟨hs, hp⟩
    · rename_i n _
      refine Keeps.gated hp hs fun hok => K.write hp hg hs _ fun cfg hc _ => ?_
      rw [configInRange_iff] at hc ⊢
      refine ⟨fun m => ?_, hc.2⟩
      show profileInRange ((setAt cfg.channels n (profileOf f)).get m) = true
      rw [get_setAt]; split
      · exact profileOf_inRange hok
      · exact hc.1 m
  case setScanlist p tag entries =>
    refine K.request h hI fun s hp hg hs => Keeps.gated hp hs fun hok => K.write hp hg hs _ fun cfg hc _ => ?_
    rw [configInRange_iff] at hc ⊢
    have h1 := hok (0, between 1 entries.length 24) (by simp)
    simp only [between, Bool.and_eq_true, decide_eq_true_eq] at h1
    have h2 : ∀ b ∈ entries, decide (b.toNat < 24) = true :=
      offsetFields_all (first := 1) (ok := fun b => decide (b.toNat < 24)) fun x hx => hok x (by simp [hx])
    refine ⟨hc.1, ⟨by simpa using h1.1, by simpa using h1.2, ?_⟩, hc.2.2⟩
    intro n hn
    obtain ⟨b, hb, rfl⟩ := List.mem_map.1 hn
    exact of_decide_eq_true (h2 b hb)
  case setTerm p tag c d =>
    refine K.request h hI fun s hp hg hs => ?_
    split
    · exact ⟨hs, hp⟩
    · rename_i k _
      refine Keeps.gated hp hs fun hok => K.write hp hg hs _ fun cfg hc _ => ?_
      rw [configInRange_iff] at hc ⊢
      refine ⟨hc.1, hc.2.1, fun m => ?_, hc.2.2.2⟩
      show termInRange ((setAt cfg.terms k (definitionOf d)).get m) = true
      rw [get_setAt]; split
      · exact definitionOf_inRange hok
      · exact hc.2.2.1 m
  case setHub p tag period sm ls =>
    refine K.request h hI fun s hp hg hs => Keeps.gated hp hs fun hok => K.write hp hg hs _ fun cfg hc _ => ?_
    rw [configInRange_iff] at hc ⊢
    have h1 := hok (0, between 5 period.toNat 500) (by simp)
    have h2 := hok (3, between 5 ls.toNat 100) (by simp)
    refine ⟨hc.1, hc.2.1, hc.2.2.1, ?_, hc.2.2.2.2⟩
    simp only [hubInRange, Bool.and_eq_true]
    exact ⟨h1, h2⟩
  case setPort p tag c rk pol =>
    refine K.request h hI fun s hp hg hs => ?_
    split
    · exact ⟨hs, hp⟩
    · rename_i q _
      refine Keeps.gated hp hs fun hok => K.write hp hg hs _ fun cfg hc _ => ?_
      rw [configInRange_iff] at hc ⊢
      have h1 := hok (1, between 0 rk.toNat 3) (by simp)
      refine ⟨hc.1, hc.2.1, hc.2.2.1, hc.2.2.2.1, fun m => ?_⟩
      show portInRange ((cfg.ports.set q ⟨rk.toNat, (polarity? pol).getD .activeLow⟩).get m) = true
      rw [PortMap.get_set]; split
      · exact h1
      · exact hc.2.2.2.2 m
  case loadStaging p tag src =>
    refine K.request h hI fun s hp hg hs => ?_
    split
    · exact ⟨hs, hp⟩
    · exact K.write hp hg hs _ fun _ _ hc => hc
    · exact K.write hp hg hs _ fun _ _ _ => by decide
    · split
      · exact ⟨hs, hp⟩
      · rename_i x hx
        refine K.write hp hg hs _ fun _ _ _ => ?_
        have := firstViolation_range hx
        simp only [configValid, Bool.and_eq_true] at this
        exact this.1
  case commit p tag =>
    refine K.request h hI fun s hp hg hs => ?_
    unfold State.commitRequest
    split
    · exact ⟨hs, hp⟩
    · exact ⟨hs, hp⟩
    · rename_i hl
      split
      · rename_i hd
        subst hd
        split
        · exact ⟨hs, hp⟩
        · rename_i hv; exact ⟨K.committing s _ _ _ hp hl hv hs, by simpa using hp⟩
      · exact ⟨hs, hp⟩
  case halt p tag =>
    refine K.request h hI fun s hp _ hs => ⟨K.halted s hp hs, ?_⟩
    unfold State.halted; split <;> simpa using hp
  case resume p tag =>
    refine K.request h hI fun s hp _ hs => ⟨K.resumed s hp hs, ?_⟩
    unfold State.resumed; split <;> simpa using hp
  case store p tag =>
    refine K.request h hI fun s hp _ hs => ?_
    unfold State.storeRequest
    split
    · exact ⟨hs, hp⟩
    · rename_i hst
      split
      · exact ⟨hs, hp⟩
      · split
        · exact ⟨hs, hp⟩
        · rename_i hg; exact ⟨K.storing s p hp hst hg hs, hp⟩
  case restart p tag =>
    refine K.request h hI fun s hp _ hs => ?_
    split
    · exact ⟨hs, hp⟩
    · exact ⟨K.restarting s _ hp hs, hp⟩
  case clearCounters p tag => exact K.request h hI fun s hp _ hs => ⟨K.counters s _ hs, hp⟩
  case readState p tag => exact K.reading h hI fun _ => rfl
  case readStatus p tag => exact K.reading h hI fun _ => rfl
  case identify p tag => exact K.reading h hI fun _ => rfl
  case readTracker p tag c => exact K.reading h hI fun _ => by split <;> rfl
  case readStaging p tag c => exact K.reading h hI fun _ => by split <;> rfl
  case readConfig p tag c => exact K.reading h hI fun _ => by split <;> rfl
  all_goals (cases h; exact ⟨hI, rfl⟩)

/-- A message refused by the transport checks keeps what its effects keep. -/
theorem Keeps.refuse {I : State → Prop} (K : Keeps I) {s : State} (p : Port) (message : List Byte) (e : TransportError)
    (hp : s.phase = .running) (h : I s) : I (s.refuseMessage p message e) := by
  unfold State.refuseMessage
  have h1 := K.hold s p ⟨transportStatus e, echoedTag message, []⟩ hp h
  split
  · exact K.counters _ _ h1
  all_goals exact h1

/-- The end of a transaction keeps what its effects keep. -/
theorem Keeps.endTransaction {I : State → Prop} (K : Keeps I) {s t : State} {p : Port} (hp : s.phase = .running)
    (hI : I s) (h : s.endTransaction p = .next t) : I t ∧ t.phase = .running := by
  have h1 := K.ended s p hp hI
  unfold State.endTransaction at h
  dsimp only at h
  split at h
  · cases h; exact ⟨hI, hp⟩
  · cases h; exact ⟨h1, hp⟩
  · split at h
    · cases h; exact ⟨h1, hp⟩
    · unfold State.receiveMessage at h
      split at h
      · cases h
        refine ⟨K.refuse _ _ _ hp h1, ?_⟩
        unfold State.refuseMessage
        split <;> exact hp
      · have := K.takeRequest _ _ _ h1 h
        exact ⟨this.1, this.2.trans hp⟩

/-- A tick (01 R10). -/
theorem Keeps.tickEffect {I : State → Prop} (K : Keeps I) {s : State} (hp : s.phase = .running) (h : I s) :
    I s.tickEffect := by
  unfold State.tickEffect
  split
  · rename_i hr hpos
    split
    · exact h
    · rename_i hw; exact K.swept s hp hr hpos (by simpa using hw) h
  · exact K.counters s _ h
  · exact h

theorem range_below {raw w : Nat} (h : raw < w) (hne : raw + 1 ≠ w) : raw + 2 ≤ w := by omega

/-- The end of a measurement (01 R3, R6, R7). -/
theorem Keeps.measured {I : State → Prop} (K : Keeps I) {s : State} {m : Measurement} {raw : Nat}
    (hp : s.phase = .running) (hu : s.unit = some m) (hraw : raw < 2 ^ (s.profile m.channel).resolution) (h : I s) :
    I (s.disturbedEnd m) ∧ I (s.countedEnd m raw) := by
  constructor
  · unfold State.disturbedEnd
    split
    · exact K.repeated s m hp hu h
    · rename_i hk
      split
      · exact K.repeated s m hp hu h
      · rename_i hs; exact K.freshLeft s m hp hu hk (by simpa using hs) h
    · rename_i hk; exact K.sweepEnded s.countSkip m _ hp hu hk (K.counters _ _ h)
    · rename_i hk; exact K.freshEnded s m _ hp hu hk h
  · unfold State.countedEnd
    dsimp only
    split
    · rename_i hk
      refine K.sweepEnded _ m _ (by simpa using hp) (by simpa using hu) hk (K.counted s _ _ _ hp (fun hin => ?_) h)
      simp only [Bool.and_eq_true, decide_eq_true_eq] at hin
      exact ⟨by omega, range_below hraw hin.2⟩
    · rename_i hk; exact K.freshEnded s m _ hp hu hk h

/-- The factory configuration satisfies every constraint and range (08 R146, 09 R157). -/
theorem factoryConfiguration_valid : configValid factoryConfiguration = true := by decide

/-- The start-up load places a valid configuration in force (09 R158). -/
theorem ImageStore.startUp_valid (im : ImageStore) : configValid im.startUp.1 = true := by
  have hf := factoryConfiguration_valid
  have hn := fun x => firstViolation_range (im := im) (x := x)
  unfold ImageStore.startUp
  revert hn
  generalize im.newest = o
  intro hn
  match o with
  | none => exact hf
  | some (.slot0, cfg) => exact hn (.slot0, cfg) rfl
  | some (.slot1, cfg) => exact hn (.slot1, cfg) rfl

/-- Every command keeps what its effects keep. -/
theorem Keeps.exec {I : State → Prop} (K : Keeps I) (i : Instr) (s t : State) (hI : I s) (h : exec i s = .next t) :
    I t := by
  have hreq := K.takeRequest i s t hI
  cases i <;> simp only [Sys2Proof.Machine.exec] at h
  case transportRefusal p m o =>
    refine Keeps.event h hI fun hp => ?_
    split
    · exact K.refuse _ _ _ hp hI
    · exact hI
  case transactionEnd p =>
    unfold execTransactionEnd at h
    split at h
    · cases h; exact hI
    · cases h; exact hI
    · rename_i hp; exact (K.endTransaction hp hI h).1
  case transactionStart p a d w =>
    unfold execTransactionStart at h
    split at h
    · cases h; exact hI
    · cases h; exact hI
    · rename_i hp
      split at h
      · rename_i t' ht
        have := K.endTransaction hp hI ht
        split at h
        · cases h; exact K.disturbed _ (K.begun _ _ _ _ this.2 this.1)
        · cases h; exact this.1
      · cases h
      · cases h
  case measurementComplete raw =>
    refine Keeps.event h hI fun hp => ?_
    split
    · exact hI
    · rename_i m hu
      split
      · rename_i hraw
        have h1 : I (s.advanceTo m.endTime) := K.advance _ hI
        have h2 := K.measured (s := s.advanceTo m.endTime) (m := m) (raw := raw.toNat) hp hu hraw h1
        dsimp only
        split
        · exact h2.1
        · exact h2.2
      · exact hI
  case sweepTick =>
    refine Keeps.event h hI fun hp => ?_
    split
    · exact hI
    · rename_i x hx
      refine K.tickEffect hp (K.ticked (s.advanceTo x) _ hp ?_ (K.advance _ hI))
      show s.sequencer.nextTick ≠ none
      rw [hx]; simp
  case commitPoint =>
    refine Keeps.event h hI fun hp => ?_
    split
    · rename_i hl hpos hu; exact K.commitPoint s _ _ _ hp hl hpos hu hI
    · exact hI
  case holdLimitExpiry n =>
    refine Keeps.event h hI fun hp => ?_
    split
    · rename_i x hx; exact K.expired (s.advanceTo x) n x hp hx (K.advance _ hI)
    · exact hI
    · exact hI
  case discardTimerExpiry p tg =>
    refine Keeps.event h hI fun hp => ?_
    split
    · exact hI
    · split
      · exact hI
      · exact hI
      · exact K.counters _ _ (K.unsampled _ _ _ (K.advance _ hI))
  case leaseTimerExpiry =>
    refine Keeps.event h hI fun hp => ?_
    split
    · exact hI
    · exact hI
    · rename_i x hl
      refine K.offered _ _ _ (K.freed (s.advanceTo x) hp ?_ (K.advance _ hI))
      show s.commitWaiting = false
      simp [State.commitWaiting, hl]
  case restartDelayExpiry straps =>
    refine Keeps.event h hI fun hp => ?_
    split
    · exact hI
    · exact K.load _ _ rfl (K.reset _ _ (K.advance _ hI))
  case erasingEnd =>
    refine Keeps.event h hI fun hp => ?_
    split
    · exact hI
    · rename_i r hr
      split
      · exact hI
      · exact hI
      · rename_i hph; exact K.erased (s.advanceTo r.endTime) r _ hp hr hph (K.advance _ hI)
  case programmingEnd =>
    refine Keeps.event h hI fun hp => ?_
    split
    · exact hI
    · rename_i r hr
      split
      · exact hI
      · exact hI
      · rename_i hph; exact K.programmed (s.advanceTo r.endTime) r _ hp hr hph (K.advance _ hI)
  case verifyingEnd g rb =>
    refine Keeps.event h hI fun hp => ?_
    split
    · exact hI
    · rename_i r hr
      split
      · exact hI
      · exact hI
      · rename_i hph
        exact K.offered _ _ _ (K.verified (s.advanceTo r.endTime) r g rb hp hr hph (K.advance _ hI))
  case supplyLow =>
    unfold execSupplyLow at h
    split at h
    · cases h; exact hI
    · dsimp only at h
      split at h
      · cases h; exact K.supply _ _ hI
      · rename_i r hr
        cases h
        exact K.offered _ _ _ (K.aborted (s.setSupply .low) r hr (K.supply _ _ hI))
  case supplyGood => cases h; exact K.supply _ _ hI
  case pulseEnd p =>
    refine Keeps.event h hI fun hp => ?_
    dsimp only
    split
    · exact hI
    · rename_i x hx; exact K.pulsed (s.advanceTo x) p x hp hx (K.advance _ hI)
  case powerReset => cases h; exact K.reset _ _ hI
  case lineReset => cases h; exact K.reset _ _ hI
  case resetEnd straps =>
    unfold execResetEnd at h
    split at h
    · cases h; exact hI
    · cases h; exact hI
    · rename_i hp; cases h; exact K.load _ _ hp hI
  case startUpLoadComplete =>
    unfold execStartUpLoadComplete at h
    split at h
    · cases h; exact hI
    · cases h; exact hI
    · rename_i x hp
      cases h
      exact K.startUp (s.advanceTo x) x _ _ hp (ImageStore.startUp_valid _) (K.advance _ hI)
  all_goals exact (hreq h).1

/-- Every step keeps what the effects of commands keep, where the queue is no business of the property. -/
theorem Keeps.step {I : State → Prop} (K : Keeps I) (hq : ∀ s x, I s → I (s.setPending x)) (s t : State) (hI : I s)
    (h : step s = .next t) : I t := by
  unfold Sys2Proof.Machine.step at h
  split at h
  · cases h; exact K.now _ _ hI
  · exact K.exec _ _ _ (hq _ _ hI) h

end Sys2Proof.Machine
end

