-- ==== Sys2Proof/Laws/Arbiter.lean ====
section
/-! SUPPORT. The arbiter and the sequencer: what `State.consult` and the end of a claim leave. -/

namespace Sys2Proof.Machine

/-- The clauses of `State.ArbiterSound` on the sequencer. -/
structure State.Seq (s : State) : Prop where
  position : s.sequencer.position ≠ none → s.sequencer.run = .run
  ticking : s.phase = .running → s.sequencer.run = .run → s.sequencer.nextTick ≠ none

theorem State.consult_commitWaiting (s : State) : s.consult.commitWaiting = s.commitWaiting := by
  unfold State.commitWaiting; rw [State.consult_lease]

theorem State.consult_arbiter {s : State} (hp : s.phase = .running) (h : s.Seq) : s.consult.ArbiterSound := by
  refine ⟨?_, ?_, ?_, ?_⟩
  · intro hu
    simp only [State.consult_sequencer, State.consult_commitWaiting]
    have hcase : s.consult.unit ≠ none ∨ (s.sequencer.position = none ∧ (s.commitWaiting = true ∨ ∀ e ∈ s.fresh, e.state ≠ .waiting) ∧ s.consult = s) := by
      unfold State.consult
      split
      · rename_i x; left; rw [x]; simp
      · split
        · rename_i h1 h2; right; exact ⟨h2, .inl h1, rfl⟩
        · left; exact fun e => (by cases e)
        · split
          · left; exact fun e => (by cases e)
          · left; exact fun e => (by cases e)
          · rename_i h1 h2; right; refine ⟨by assumption, .inr ?_, rfl⟩
            intro e he
            have := List.find?_eq_none.1 h1 e he
            simpa using this
    rcases hcase with hc | ⟨hc, hd, he⟩
    · exact absurd hu hc
    · rw [he]; exact ⟨hc, hd⟩
  · simpa using h.position
  · simpa using h.ticking
  · intro hne; exact absurd (by simpa using hp) hne

theorem State.ArbiterSound.seq {s : State} (h : s.ArbiterSound) : s.Seq := ⟨h.2, h.3⟩
theorem State.Seq.of_eq {s t : State} (h : s.Seq) (h1 : t.sequencer = s.sequencer) (h2 : t.phase = s.phase) : t.Seq := by
  constructor <;> rw [h1]
  · exact h.1
  · rw [h2]; exact h.2

theorem State.placeOrClose_sequencer (s : State) (o) : (s.placeOrClose o).sequencer = { s.sequencer with position := o } := by
  unfold State.placeOrClose; split
  · rfl
  · unfold State.closeSweep; simp

theorem State.sequencerActs_seq {s : State} (c) (h : s.Seq) : (s.sequencerActs c).Seq := by
  unfold State.sequencerActs
  split
  · exact h
  · rename_i n hn
    split
    · refine ⟨?_, ?_⟩
      · rw [State.placeOrClose_sequencer]; intro _; exact h.1 (by simp [hn])
      · rw [State.placeOrClose_sequencer, State.placeOrClose_phase]; exact h.2
    · exact h

end Sys2Proof.Machine
end

