-- ==== Sys2Proof/Laws/Delivery.lean ====
section
/-! SUPPORT. What the operations of the delivery unit do to one port: each keeps `Delivery.Sound` (05 R77, R86, R87, 06 R89,
R90, R94, R100). -/

namespace Sys2Proof.Machine

/-! ### Sequence numbers -/

theorem nextSequence_ne_zero (n : BitVec 16) : nextSequence n ≠ 0 := by
  unfold nextSequence
  split
  · decide
  · rename_i h
    intro e
    apply h
    have : n.toNat + 1 ≡ 0 [MOD 65536] := by
      have := congrArg BitVec.toNat e
      simpa [BitVec.toNat_add, Nat.ModEq] using this
    apply BitVec.eq_of_toNat_eq
    have hn := n.isLt
    simp [Nat.ModEq] at this ⊢
    omega

theorem numbered_append {first next : BitVec 16} {q : List Entry} (h : numbered first q next) (hn : next ≠ 0)
    (e : Entry) (he : e.sequence = next) : numbered first (q ++ [e]) (nextSequence next) := by
  induction q generalizing first with
  | nil => cases h; exact ⟨he, hn, rfl⟩
  | cons x xs ih => exact ⟨h.1, h.2.1, ih h.2.2⟩

theorem numbered_drop {first next : BitVec 16} {q : List Entry} (h : numbered first q next) (k : Nat) :
    ∃ f, numbered f (q.drop k) next := by
  induction q generalizing first k with
  | nil => exact ⟨first, by simpa using h⟩
  | cons x xs ih =>
    cases k with
    | zero => exact ⟨first, h⟩
    | succ k => exact ih h.2.2 k

theorem numbered_congr {first next : BitVec 16} {q q' : List Entry}
    (hq : q'.map Entry.sequence = q.map Entry.sequence) (h : numbered first q next) : numbered first q' next := by
  induction q generalizing first q' with
  | nil => cases q' with
    | nil => exact h
    | cons y ys => simp at hq
  | cons x xs ih => cases q' with
    | nil => simp at hq
    | cons y ys =>
      simp only [List.map_cons, List.cons.injEq] at hq
      exact ⟨hq.1.trans h.1, h.2.1, ih hq.2 h.2.2⟩

/-! ### The parts of soundness that a drain keeps at every member -/

/-- `Delivery.Sound` without the fullness of a lapsed port's queue, for a port whose session is open. -/
structure Delivery.Kept (d : Delivery) (se : Session) : Prop where
  isOpen : d.session = some se
  capacity : d.queue.length ≤ 32
  readFirst : d.queue.Pairwise fun older newer => newer.read = true → older.read = true
  sequences : d.nextSeq ≠ 0 ∧ ∃ first, numbered first d.queue d.nextSeq
  threshold : 1 ≤ se.threshold ∧ se.threshold ≤ 32
  level : se.mode = .level →
    se.rearm = none ∧ d.line.pulseEnd = none ∧ d.line.overtaken = none ∧
    (d.line.active = decide (se.threshold ≤ d.unread) ∨ d.reopened ≠ none ∧ d.line.active = false)
  pulse : se.mode = .pulse →
    d.line.active = d.line.pulseEnd.isSome ∧
    se.rearm = some (if d.unread < se.threshold then Rearm.armed else Rearm.spent) ∧
    (d.line.pulseEnd = none → d.line.overtaken = none)

theorem Delivery.Sound.kept {d : Delivery} (h : d.Sound) {se : Session} (hs : d.session = some se) : d.Kept se :=
  ⟨hs, h.capacity, h.readFirst, h.sequences, h.threshold se hs, h.level se hs, h.pulse se hs⟩

theorem Delivery.Kept.sound {d : Delivery} {se : Session} (h : d.Kept se)
    (hl : d.lapsed ≠ .empty → d.queue.length = 32) : d.Sound where
  capacity := h.capacity
  lapsedFull := hl
  readFirst := h.readFirst
  sequences := h.sequences
  closed := by simp [h.isOpen]
  threshold := by intro s hs; cases h.isOpen.symm.trans hs; exact h.threshold
  level := by intro s hs; cases h.isOpen.symm.trans hs; exact h.level
  pulse := by intro s hs; cases h.isOpen.symm.trans hs; exact h.pulse

theorem unread_append (d : Delivery) (e : Entry) (he : e.read = false) (q : List Entry) (hq : q = d.queue ++ [e]) :
    (q.filter fun e => !e.read).length = d.unread + 1 := by
  subst hq; simp [Delivery.unread, List.filter_append, he]

/-! ### What sets the line -/

/-- The line's update after an append keeps everything but the line's condition and the flag. -/
theorem Delivery.lineAfterAppend_rest (d : Delivery) (now : Nat) :
    (d.lineAfterAppend now).queue = d.queue ∧ (d.lineAfterAppend now).lapsed = d.lapsed ∧
    (d.lineAfterAppend now).nextSeq = d.nextSeq ∧ (d.lineAfterAppend now).appended = d.appended ∧
    (d.lineAfterAppend now).reopened = d.reopened ∧
    (d.lineAfterAppend now).session.isSome = d.session.isSome ∧
    (d.lineAfterAppend now).line.driven = d.line.driven ∧ (d.lineAfterAppend now).line.polarity = d.line.polarity := by
  unfold Delivery.lineAfterAppend
  split
  · simp
  · split
    · split <;> simp [Delivery.followLevel]
    · split
      · simp only [AttentionLine.beginPulse]; split <;> simp_all
      · simp

/-- The line's update after an append, by the mode of the open session (05 R86 to R88). -/
theorem Delivery.lineAfterAppend_open (d : Delivery) (now : Nat) {se : Session} (hs : d.session = some se) :
    (se.mode = .level → d.lineAfterAppend now = if d.justReopened now then d else d.followLevel se.threshold) ∧
    (se.mode = .pulse → d.lineAfterAppend now =
      if d.unread = se.threshold ∧ se.rearm = some .armed then
        { d with
          session := some { se with rearm := some .spent }
          line := if d.justReopened now then d.line else d.line.beginPulse now }
      else d) := by
  unfold Delivery.lineAfterAppend
  rw [hs]
  exact ⟨fun h => by simp [h], fun h => by simp [h]⟩

/-- What an append leaves: one UNREAD entry more, the next number, and the lapsed set and the re-open's moment as they were. -/
theorem Delivery.append_queue (d : Delivery) (now : Nat) (stamp : BitVec 16) (resync : Bool) (r : Report) :
    (d.append now stamp resync r).queue = d.queue ++ [⟨d.nextSeq, r, resync, stamp, false⟩] ∧
    (d.append now stamp resync r).nextSeq = nextSequence d.nextSeq ∧
    (d.append now stamp resync r).appended = true ∧
    (d.append now stamp resync r).lapsed = d.lapsed ∧
    (d.append now stamp resync r).reopened = d.reopened := by
  unfold Delivery.append
  obtain ⟨h1, h2, h3, h4, h5, -⟩ := Delivery.lineAfterAppend_rest
    { d with
      queue := d.queue ++ [⟨d.nextSeq, r, resync, stamp, false⟩], nextSeq := nextSequence d.nextSeq, appended := true } now
  exact ⟨h1, h3, h4, h2, h5⟩

/-- An append keeps the line's drive and polarity. -/
theorem Delivery.append_line (d : Delivery) (now : Nat) (stamp : BitVec 16) (resync : Bool) (r : Report) :
    (d.append now stamp resync r).line.driven = d.line.driven ∧
    (d.append now stamp resync r).line.polarity = d.line.polarity := by
  unfold Delivery.append
  obtain ⟨-, -, -, -, -, -, h7, h8⟩ := Delivery.lineAfterAppend_rest
    { d with
      queue := d.queue ++ [⟨d.nextSeq, r, resync, stamp, false⟩], nextSeq := nextSequence d.nextSeq, appended := true } now
  exact ⟨h7, h8⟩

theorem Delivery.append_session (d : Delivery) (now : Nat) (stamp : BitVec 16) (resync : Bool) (r : Report) :
    (d.append now stamp resync r).session.isSome = d.session.isSome := by
  unfold Delivery.append
  exact (Delivery.lineAfterAppend_rest _ _).2.2.2.2.2.1

theorem pairwise_append_unread {q : List Entry} (h : q.Pairwise fun older newer => newer.read = true → older.read = true)
    (e : Entry) (he : e.read = false) :
    (q ++ [e]).Pairwise fun older newer => newer.read = true → older.read = true := by
  rw [List.pairwise_append]
  refine ⟨h, by simp, ?_⟩
  intro a _ b hb
  simp only [List.mem_singleton] at hb
  subst hb; simp [he]

/-- An append to a port with room keeps what `Delivery.Kept` says. -/
theorem Delivery.append_kept {d : Delivery} {se : Session} (h : d.Kept se) (hroom : d.queue.length < 32)
    (now : Nat) (stamp : BitVec 16) (resync : Bool) (r : Report) :
    ∃ se', (d.append now stamp resync r).Kept se' := by
  obtain ⟨ho, hc, hr, ⟨hz, f, hf⟩, ht, hl, hp⟩ := h
  have hq := d.append_queue now stamp resync r
  have hun : (d.append now stamp resync r).unread = d.unread + 1 := by
    unfold Delivery.unread
    exact unread_append d _ rfl _ hq.1
  have hcap : (d.append now stamp resync r).queue.length ≤ 32 := by rw [hq.1]; simp; omega
  have hread := pairwise_append_unread hr ⟨d.nextSeq, r, resync, stamp, false⟩ rfl
  rw [← hq.1] at hread
  have hseq : (d.append now stamp resync r).nextSeq ≠ 0 ∧
      ∃ first, numbered first (d.append now stamp resync r).queue (d.append now stamp resync r).nextSeq := by
    rw [hq.2.1, hq.1]
    exact ⟨nextSequence_ne_zero _, f, numbered_append hf hz _ rfl⟩
  let d1 : Delivery :=
    { d with
      queue := d.queue ++ [⟨d.nextSeq, r, resync, stamp, false⟩], nextSeq := nextSequence d.nextSeq, appended := true }
  have hd1 : d.append now stamp resync r = d1.lineAfterAppend now := rfl
  have hlen : d1.unread = d.unread + 1 := unread_append d _ rfl _ rfl
  have hopen := d1.lineAfterAppend_open now (se := se) ho
  have hreo := hq.2.2.2.2
  cases hm : se.mode with
  | level =>
    obtain ⟨l1, l2, l3, l4⟩ := hl hm
    have hline : (d.append now stamp resync r) = if d1.justReopened now then d1 else d1.followLevel se.threshold := by
      rw [hd1]; exact hopen.1 hm
    refine ⟨se, ?_, hcap, hread, hseq, ht, fun _ => ⟨l1, ?_, ?_, ?_⟩, fun h => absurd (hm.symm.trans h) (by decide)⟩
    · rw [hline]; split <;> exact ho
    · rw [hline]; split <;> exact l2
    · rw [hline]; split <;> exact l3
    · rw [hun, hreo, hline]
      split
      · rename_i hj
        have hj' : d.reopened = some now := of_decide_eq_true hj
        show d.line.active = _ ∨ _ ∧ d.line.active = false
        rcases l4 with l4 | ⟨-, l4⟩
        · by_cases hge : se.threshold ≤ d.unread
          · exact .inl (by rw [l4, decide_eq_true hge, decide_eq_true (Nat.le_succ_of_le hge)])
          · exact .inr ⟨by rw [hj']; simp, by rw [l4, decide_eq_false hge]⟩
        · exact .inr ⟨by rw [hj']; simp, l4⟩
      · exact .inl (by show decide (se.threshold ≤ d1.unread) = _; rw [hlen])
  | pulse =>
    obtain ⟨p1, p2, p3⟩ := hp hm
    have hline := hopen.2 hm
    rw [← hd1] at hline
    by_cases hh : d1.unread = se.threshold ∧ se.rearm = some .armed
    · rw [if_pos hh] at hline
      refine ⟨{ se with rearm := some .spent }, by rw [hline], hcap, hread, hseq, ht,
        fun h => absurd (hm.symm.trans h) (by decide), fun _ => ⟨?_, ?_, ?_⟩⟩
      · rw [hline]; dsimp only; split
        · exact p1
        · rfl
      · rw [hun]; simp only [hh.1 ▸ hlen]; simp [← hlen, hh.1]
      · rw [hline]; dsimp only; split
        · exact p3
        · intro h; cases h
    · rw [if_neg hh] at hline
      refine ⟨se, by rw [hline]; exact ho, hcap, hread, hseq, ht, fun h => absurd (hm.symm.trans h) (by decide),
        fun _ => ⟨by rw [hline]; exact p1, ?_, by rw [hline]; exact p3⟩⟩
      rw [hun, p2]
      by_cases hlt : d.unread < se.threshold
      · have hne : d.unread + 1 ≠ se.threshold := fun e => hh ⟨hlen.trans e, by rw [p2, if_pos hlt]⟩
        rw [if_pos hlt, if_pos (by omega)]
      · rw [if_neg hlt, if_neg (by omega)]

/-! ### Offering -/

/-- An append of an offered event keeps soundness (06 R91, R92). -/
theorem Delivery.append_sound {d : Delivery} (h : d.Sound) {se : Session} (hs : d.session = some se)
    (ha : d.appendable = true) (now : Nat) (stamp : BitVec 16) (r : Report) :
    (d.append now stamp false r).Sound := by
  simp only [Delivery.appendable, Lapsed.isEmpty, queueCapacity, Bool.and_eq_true, decide_eq_true_eq] at ha
  have hroom : d.queue.length < 32 := of_decide_eq_true ha.2
  obtain ⟨se', hk⟩ := Delivery.append_kept (h.kept hs) hroom now stamp false r
  refine hk.sound fun hne => absurd ?_ hne
  rw [(d.append_queue now stamp false r).2.2.2.1, ha.1]

/-- A fold keeps soundness (06 R93, R94). -/
theorem Delivery.fold_sound {d : Delivery} (h : d.Sound) {se : Session} (hs : d.session = some se)
    (ha : d.appendable = false) (r : Report) : (d.fold r).Sound where
  capacity := h.capacity
  lapsedFull := fun _ => by
    simp only [Delivery.appendable, Lapsed.isEmpty, queueCapacity, Bool.and_eq_false_iff, decide_eq_false_iff_not] at ha
    rcases ha with ha | ha
    · exact h.lapsedFull ha
    · have h1 := h.capacity
      have h2 : ¬ d.queue.length < 32 := of_decide_eq_false ha
      show d.queue.length = 32; omega
  readFirst := h.readFirst
  sequences := h.sequences
  closed := by simp [Delivery.fold, hs]
  threshold := h.threshold
  level := h.level
  pulse := h.pulse

/-! ### Reading, acknowledging and draining -/

theorem takeWhile_of_readFirst {q : List Entry}
    (h : q.Pairwise fun older newer => newer.read = true → older.read = true) :
    ∀ e ∈ q.drop (q.takeWhile fun e => e.read).length, e.read = false := by
  induction q with
  | nil => simp
  | cons x xs ih =>
    rw [List.pairwise_cons] at h
    by_cases hx : x.read = true
    · simpa [hx] using ih h.2
    · simp only [Bool.not_eq_true] at hx
      simp only [List.takeWhile_cons, hx, Bool.false_eq_true, if_false, List.length_nil, List.drop_zero,
        List.mem_cons]
      rintro e (rfl | he)
      · exact hx
      · by_contra hc
        simp only [Bool.not_eq_false] at hc
        have := h.1 e he hc
        simp [hx] at this

/-- The queue after a READ_EVENTS: a run of entries marked READ, the rest as they were. -/
def markRun (q : List Entry) (start count : Nat) : List Entry :=
  q.take start ++ ((q.drop start).take count).map Entry.markRead ++ q.drop (start + count)

theorem markRun_sequences (q : List Entry) (start count : Nat) :
    (markRun q start count).map Entry.sequence = q.map Entry.sequence := by
  have h1 : (Entry.sequence ∘ Entry.markRead) = Entry.sequence := rfl
  simp only [markRun, List.map_append, List.map_map, h1]
  rw [← List.map_append, ← List.map_append]
  congr 1
  rw [List.append_assoc, ← List.drop_drop, List.take_append_drop, List.take_append_drop]

theorem markRun_length (q : List Entry) (start count : Nat) : (markRun q start count).length = q.length := by
  simpa using congrArg List.length (markRun_sequences q start count)

theorem markRun_readFirst {q : List Entry} {start count : Nat}
    (h : q.Pairwise fun older newer => newer.read = true → older.read = true)
    (hs : ∀ e ∈ q.take start, e.read = true) :
    (markRun q start count).Pairwise fun older newer => newer.read = true → older.read = true := by
  unfold markRun
  rw [List.pairwise_append]
  refine ⟨?_, h.sublist (List.drop_sublist _ _), ?_⟩
  · have hall : ∀ e ∈ q.take start ++ ((q.drop start).take count).map Entry.markRead, e.read = true := by
      intro e he
      rw [List.mem_append] at he
      rcases he with he | he
      · exact hs e he
      · obtain ⟨x, _, rfl⟩ := List.mem_map.1 he
        rfl
    exact List.pairwise_of_forall_mem_list fun a ha b _ _ => hall a ha
  · intro a ha b _ _
    rw [List.mem_append] at ha
    rcases ha with ha | ha
    · exact hs a ha
    · obtain ⟨x, _, rfl⟩ := List.mem_map.1 ha
      rfl

theorem unread_markRun_le (q : List Entry) (start count : Nat) :
    ((markRun q start count).filter fun e => !e.read).length ≤ (q.filter fun e => !e.read).length := by
  have hz : ∀ l : List Entry, ((l.map Entry.markRead).filter fun e => !e.read) = [] := by
    intro l; rw [List.filter_eq_nil_iff]; intro e he
    obtain ⟨x, _, rfl⟩ := List.mem_map.1 he; simp [Entry.markRead]
  have hq : q = q.take start ++ ((q.drop start).take count) ++ q.drop (start + count) := by
    rw [List.append_assoc, ← List.drop_drop, List.take_append_drop, List.take_append_drop]
  conv_rhs => rw [hq]
  simp only [markRun, List.filter_append, List.length_append, hz, List.length_nil]
  omega

/-- Withdrawing a pulse keeps the line's drive and polarity, and a line without a pulse. -/
theorem AttentionLine.withdrawPulse_rest (l : AttentionLine) (now : Nat) :
    (l.withdrawPulse now).driven = l.driven ∧ (l.withdrawPulse now).polarity = l.polarity := by
  unfold AttentionLine.withdrawPulse
  split <;> exact ⟨rfl, rfl⟩

/-- Withdrawing a pulse keeps the line active exactly during pulses. -/
theorem AttentionLine.withdrawPulse_active {l : AttentionLine} (ha : l.active = l.pulseEnd.isSome)
    (ho : l.pulseEnd = none → l.overtaken = none) (now : Nat) :
    (l.withdrawPulse now).active = (l.withdrawPulse now).pulseEnd.isSome ∧
    ((l.withdrawPulse now).pulseEnd = none → (l.withdrawPulse now).overtaken = none) := by
  unfold AttentionLine.withdrawPulse
  split
  · exact ⟨rfl, fun _ => rfl⟩
  · exact ⟨ha, ho⟩

/-- The line's update after a read keeps everything but the line's condition and the flag. -/
theorem Delivery.lineAfterRead_rest (d : Delivery) (now : Nat) :
    (d.lineAfterRead now).queue = d.queue ∧ (d.lineAfterRead now).lapsed = d.lapsed ∧
    (d.lineAfterRead now).nextSeq = d.nextSeq ∧ (d.lineAfterRead now).appended = d.appended ∧
    (d.lineAfterRead now).session.isSome = d.session.isSome ∧
    (d.lineAfterRead now).line.driven = d.line.driven ∧ (d.lineAfterRead now).line.polarity = d.line.polarity := by
  unfold Delivery.lineAfterRead
  split
  · simp
  · split
    · simp [Delivery.followLevel]
    · have := d.line.withdrawPulse_rest now
      simp_all

/-- The line's update after a read, by the mode of the open session (05 R86 to R88). -/
theorem Delivery.lineAfterRead_open (d : Delivery) (now : Nat) {s0 : Session} (hs : d.session = some s0) :
    (s0.mode = .level → d.lineAfterRead now = d.followLevel s0.threshold) ∧
    (s0.mode = .pulse → d.lineAfterRead now =
      { d with
        session := some (if d.unread < s0.threshold then { s0 with rearm := some .armed } else s0)
        line := d.line.withdrawPulse now }) := by
  unfold Delivery.lineAfterRead
  rw [hs]
  exact ⟨fun h => by simp [h], fun h => by simp [h]⟩

/-- READ_EVENTS keeps soundness (06 R99, R100; 05 R86 to R88). -/
theorem Delivery.readOut_sound {d : Delivery} (h : d.Sound) (now : Nat) (mode : ReadMode) (count : Nat) :
    (d.readOut now mode count).Sound := by
  have hstart : ∀ e ∈ d.queue.take (readStart mode d.queue), e.read = true := by
    intro e he
    cases mode with
    | next =>
      have hp : d.queue.take (d.queue.takeWhile fun e => e.read).length = d.queue.takeWhile fun e => e.read :=
        (List.prefix_iff_eq_take.1 (List.takeWhile_prefix _)).symm
      simp only [readStart, hp] at he
      exact List.mem_takeWhile_imp he
    | fromOldest => simp [readStart] at he
  let d1 : Delivery := { d with queue := markRun d.queue (readStart mode d.queue) count }
  have hd1 : d.readOut now mode count = d1.lineAfterRead now := rfl
  have hu : d1.unread ≤ d.unread := unread_markRun_le d.queue _ _
  have hrest := d1.lineAfterRead_rest now
  rw [hd1]
  have hlen : d1.queue.length = d.queue.length := markRun_length _ _ _
  have hun : (d1.lineAfterRead now).unread = d1.unread := by unfold Delivery.unread; rw [hrest.1]
  cases hs : d.session with
  | none =>
    have hc := h.closed hs
    have hq : markRun d.queue (readStart mode d.queue) count = [] := by
      apply List.eq_nil_of_length_eq_zero; rw [markRun_length, hc.1]; rfl
    have hd : d1 = d := by
      show ({ d with queue := _ } : Delivery) = d
      rw [hq, ← hc.1]
    have hl : d.lineAfterRead now = d := by unfold Delivery.lineAfterRead; rw [hs]
    rw [hd, hl]; exact h
  | some s0 =>
    have hk := h.kept hs
    have hopen := d1.lineAfterRead_open now (s0 := s0) hs
    have hful : (d1.lineAfterRead now).lapsed ≠ .empty → (d1.lineAfterRead now).queue.length = 32 := by
      rw [hrest.1, hlen, hrest.2.1]; exact h.lapsedFull
    have hcap : (d1.lineAfterRead now).queue.length ≤ 32 := by rw [hrest.1, hlen]; exact h.capacity
    have hread := markRun_readFirst (count := count) h.readFirst hstart
    have hseq : (d1.lineAfterRead now).nextSeq ≠ 0 ∧
        ∃ first, numbered first (d1.lineAfterRead now).queue (d1.lineAfterRead now).nextSeq := by
      rw [hrest.1, hrest.2.2.1]
      obtain ⟨hz, f, hf⟩ := h.sequences
      exact ⟨hz, f, numbered_congr (markRun_sequences _ _ _) hf⟩
    cases hm : s0.mode with
    | level =>
      have hline := hopen.1 hm
      obtain ⟨l1, l2, l3, -⟩ := hk.level hm
      refine Delivery.Kept.sound (se := s0) ⟨by rw [hline]; exact hs, hcap, by rw [hrest.1]; exact hread, hseq, hk.threshold,
        fun _ => ⟨l1, by rw [hline]; exact l2, by rw [hline]; exact l3, .inl ?_⟩,
        fun e => absurd (hm.symm.trans e) (by decide)⟩ hful
      rw [hun, hline]; rfl
    | pulse =>
      have hline := hopen.2 hm
      obtain ⟨p1, p2, p3⟩ := hk.pulse hm
      have hw := AttentionLine.withdrawPulse_active p1 p3 now
      refine Delivery.Kept.sound (se := if d1.unread < s0.threshold then { s0 with rearm := some .armed } else s0)
        ⟨by rw [hline], hcap, by rw [hrest.1]; exact hread, hseq, ?_, ?_, ?_⟩ hful
      · split <;> exact hk.threshold
      · intro e; exfalso; split at e <;> exact absurd (hm.symm.trans e) (by decide)
      · intro _
        refine ⟨by rw [hline]; exact hw.1, ?_, by rw [hline]; exact hw.2⟩
        rw [hun]
        by_cases hlt : d1.unread < s0.threshold
        · simp [hlt]
        · simp only [hlt, if_false, p2, if_neg (show ¬ d.unread < s0.threshold by omega)]

/-- One member of the drain keeps what `Delivery.Kept` says. -/
theorem State.drainMember_kept (s : State) {d : Delivery} {se : Session} (h : d.Kept se) (m : Member) :
    ∃ se', (s.drainMember d m).Kept se' := by
  unfold State.drainMember
  split
  · rename_i hroom
    split
    · exact ⟨se, h⟩
    · have hk : ({ d with lapsed := d.lapsed.remove m } : Delivery).Kept se :=
        ⟨h.isOpen, h.capacity, h.readFirst, h.sequences, h.threshold, h.level, h.pulse⟩
      exact Delivery.append_kept hk hroom _ _ _ _
  · exact ⟨se, h⟩

theorem State.drain_kept (s : State) {d : Delivery} {se : Session} (h : d.Kept se) (l : List Member) :
    ∃ se', (l.foldl s.drainMember d).Kept se' := by
  induction l generalizing d se with
  | nil => exact ⟨se, h⟩
  | cons m ms ih =>
    obtain ⟨se', h'⟩ := s.drainMember_kept h m
    exact ih h'

/-- The drain leaves the line's drive and polarity. -/
theorem State.drain_line (s : State) (d : Delivery) (l : List Member) :
    (l.foldl s.drainMember d).line.driven = d.line.driven ∧ (l.foldl s.drainMember d).line.polarity = d.line.polarity := by
  induction l generalizing d with
  | nil => exact ⟨rfl, rfl⟩
  | cons m ms ih =>
    have h1 : (s.drainMember d m).line.driven = d.line.driven ∧ (s.drainMember d m).line.polarity = d.line.polarity := by
      unfold State.drainMember
      split
      · split
        · exact ⟨rfl, rfl⟩
        · exact Delivery.append_line _ _ _ _ _
      · exact ⟨rfl, rfl⟩
    exact ⟨(ih _).1.trans h1.1, (ih _).2.trans h1.2⟩

/-- The drive and polarity of the line after an accepted acknowledgement. -/
theorem State.acknowledge_line (s : State) (d : Delivery) (sequence : BitVec 16) :
    (s.drain (d.removeUpTo sequence)).line.driven = d.line.driven ∧
    (s.drain (d.removeUpTo sequence)).line.polarity = d.line.polarity := by
  have h := s.drain_line (d.removeUpTo sequence) drainOrder
  unfold State.drain
  generalize drainOrder = l at h ⊢
  exact h

theorem clearBit_get {w : Nat} (m : BitVec w) (n i : Nat) :
    (clearBit m n).getLsbD i = (m.getLsbD i && !decide (i = n)) := by
  unfold clearBit
  simp only [BitVec.getLsbD_and, BitVec.getLsbD_not, BitVec.getLsbD_shiftLeft, BitVec.getLsbD_one]
  by_cases hi : i < w
  · by_cases h1 : i = n
    · subst h1; simp [hi]; intro _; omega
    · by_cases h2 : i < n
      · simp [hi, h1, h2]
      · have : i - n ≠ 0 := by omega
        simp [hi, h1, h2, this]
  · simp [BitVec.getLsbD_of_ge m i (by omega)]

/-- A member is in the set. -/
def Lapsed.has (l : Lapsed) : Member → Bool
  | .epoch => l.epoch
  | .lease => l.lease.isSome
  | .store => l.store.isSome
  | .channel n => l.channels.getLsbD n.val
  | .term k => l.terms.getLsbD k.val

theorem Lapsed.has_remove (l : Lapsed) (m m' : Member) : (l.remove m).has m' = (l.has m' && !decide (m' = m)) := by
  cases m <;> cases m' <;>
    simp [Lapsed.remove, Lapsed.has, clearBit_get, Fin.ext_iff, -BitVec.getLsbD_eq_getElem]

theorem mem_drainOrder (m : Member) : m ∈ drainOrder := by
  cases m <;> simp [drainOrder, ChannelId.all, TermId.all]

theorem Lapsed.eq_empty_of_none (l : Lapsed) (h : ∀ m, l.has m = false) : l = .empty := by
  have he := h .epoch
  have hl := h .lease
  have hs := h .store
  have hc : l.channels = 0 := by
    apply BitVec.eq_of_getLsbD_eq
    intro i hi
    have := h (.channel ⟨i, hi⟩)
    simpa [Lapsed.has] using this
  have ht : l.terms = 0 := by
    apply BitVec.eq_of_getLsbD_eq
    intro i hi
    have := h (.term ⟨i, hi⟩)
    simpa [Lapsed.has] using this
  cases l
  simp_all [Lapsed.has, Lapsed.empty]

theorem State.drainReport_isSome (s : State) (l : Lapsed) (m : Member) : (s.drainReport l m).isSome = l.has m := by
  cases m <;> simp [State.drainReport, Lapsed.has] <;> split <;> simp_all

theorem State.drain_full (s : State) (l : List Member) (d : Delivery) (h32 : d.queue.length ≤ 32) :
    (l.foldl s.drainMember d).queue.length = 32 ∨
    ((l.foldl s.drainMember d).queue.length ≤ 32 ∧
      ∀ m, (l.foldl s.drainMember d).lapsed.has m = (d.lapsed.has m && !decide (m ∈ l))) := by
  induction l generalizing d with
  | nil => right; simp [h32]
  | cons m ms ih =>
    have hstep : (s.drainMember d m).queue.length ≤ 32 ∧
        (d.queue.length = 32 → s.drainMember d m = d) ∧
        (d.queue.length < 32 → ∀ m', (s.drainMember d m).lapsed.has m' = (d.lapsed.has m' && !decide (m' = m))) := by
      unfold State.drainMember queueCapacity
      by_cases hr : d.queue.length < 32
      · simp only [hr, if_true]
        cases hdr : s.drainReport d.lapsed m with
        | none =>
          refine ⟨h32, fun _ => rfl, fun _ m' => ?_⟩
          have := s.drainReport_isSome d.lapsed m
          rw [hdr] at this
          by_cases e : m' = m
          · subst e; simp [← this]
          · simp [e]
        | some r =>
          have hq := ({ d with lapsed := d.lapsed.remove m } : Delivery).append_queue s.now s.stamp true r
          refine ⟨by simp only [hq.1]; simp; omega, fun e => by omega, fun _ m' => ?_⟩
          simp only [hq.2.2.2.1]
          exact Lapsed.has_remove _ _ _
      · simp only [hr, if_false]
        exact ⟨h32, fun _ => trivial, fun h => h.elim⟩
    rcases Nat.lt_or_ge d.queue.length 32 with hlt | hge
    · rcases ih (s.drainMember d m) hstep.1 with h | ⟨h, hm⟩
      · left; exact h
      · right
        refine ⟨h, fun m' => ?_⟩
        simp only [List.foldl_cons]
        rw [hm, hstep.2.2 hlt]
        by_cases e : m' = m <;> simp [e]
    · left
      have e32 : d.queue.length = 32 := by omega
      have key : ∀ l : List Member, l.foldl s.drainMember d = d := by
        intro l
        induction l with
        | nil => rfl
        | cons x xs ihx =>
          have : s.drainMember d x = d := by
            unfold State.drainMember queueCapacity; simp [e32]
          simp [List.foldl_cons, this, ihx]
      rw [key, e32]

theorem takeWhile_find_read {q : List Entry} {sequence : BitVec 16} {e : Entry}
    (h : q.Pairwise fun older newer => newer.read = true → older.read = true)
    (hf : (q.find? fun e => decide (e.sequence = sequence)) = some e) (hr : e.read = true) :
    ∀ x ∈ q.take (ackCount sequence q), x.read = true := by
  induction q with
  | nil => simp at hf
  | cons y ys ih =>
    rw [List.pairwise_cons] at h
    by_cases hy : y.sequence = sequence
    · simp only [hy, decide_true, List.find?_cons_of_pos, Option.some.injEq] at hf
      subst hf
      simp [ackCount, hy, hr]
    · simp only [hy, decide_false, Bool.false_eq_true, not_false_eq_true, List.find?_cons_of_neg] at hf
      have hmem : e ∈ ys := List.mem_of_find?_eq_some hf
      have hih := ih h.2 hf
      have : ackCount sequence (y :: ys) = ackCount sequence ys + 1 := by simp [ackCount, hy]
      rw [this, List.take_succ_cons]
      intro x hx
      rcases List.mem_cons.1 hx with rfl | hx
      · exact h.1 e hmem hr
      · exact hih x hx

/-- An accepted acknowledgement keeps soundness (06 R94, R103, R104). -/
theorem State.acknowledge_sound (s : State) {d : Delivery} (h : d.Sound) {se : Session} (hs : d.session = some se)
    {sequence : BitVec 16} {e : Entry}
    (hf : (d.queue.find? fun e => decide (e.sequence = sequence)) = some e) (hr : e.read = true) :
    (s.drain (d.removeUpTo sequence)).Sound := by
  have hk := h.kept hs
  have hread := takeWhile_find_read h.readFirst hf hr
  have hun : (d.removeUpTo sequence).unread = d.unread := by
    unfold Delivery.unread Delivery.removeUpTo
    conv_rhs => rw [← List.take_append_drop (ackCount sequence d.queue) d.queue]
    rw [List.filter_append, List.length_append]
    have : ((d.queue.take (ackCount sequence d.queue)).filter fun e => !e.read) = [] := by
      rw [List.filter_eq_nil_iff]; intro x hx; simp [hread x hx]
    simp [this]
  have hk1 : (d.removeUpTo sequence).Kept se := by
    refine ⟨hs, ?_, ?_, ?_, hk.threshold, ?_, ?_⟩
    · have := h.capacity
      simp only [Delivery.removeUpTo, List.length_drop]; omega
    · exact h.readFirst.sublist (List.drop_sublist _ _)
    · obtain ⟨hz, f, hn⟩ := h.sequences
      exact ⟨hz, numbered_drop hn _⟩
    · intro hm; rw [hun]; exact hk.level hm
    · intro hm; rw [hun]; exact hk.pulse hm
  obtain ⟨se', hk2⟩ := s.drain_kept hk1 drainOrder
  refine hk2.sound fun hne => ?_
  rcases s.drain_full drainOrder (d.removeUpTo sequence) hk1.capacity with h32 | ⟨_, hm⟩
  · exact h32
  · exfalso
    apply hne
    apply Lapsed.eq_empty_of_none
    intro m
    rw [hm m]
    simp [mem_drainOrder]

end Sys2Proof.Machine
end

