-- ==== Sys2Proof/Laws/DeliveryUnit.lean ====
section
/-! SUPPORT. `State.DeliveryKept`, and so `State.DeliverySound`, is kept by each operation that reaches the delivery unit. -/

namespace Sys2Proof.Machine

/-- `State.DeliverySound` with any condition on the polarities in place of the active configuration's, which an
operation that drives no line anew keeps. -/
structure State.DeliveryKept (pol : Port → Polarity → Prop) (s : State) : Prop where
  ports : ∀ p, (s.delivery.get p).Sound
  closedBefore : s.phase ≠ .running → ∀ p, (s.delivery.get p).session = none
  driven : ∀ p, (s.delivery.get p).line.driven = decide (s.phase = .running)
  polarity : ∀ p, pol p (s.delivery.get p).line.polarity

/-- The condition of `State.DeliverySound` on the polarities. -/
def polarityOf (active : Option Configuration) (p : Port) (x : Polarity) : Prop :=
  ∀ cfg, active = some cfg → x = (cfg.ports.get p).polarity

theorem State.deliverySound_iff (s : State) : s.DeliverySound ↔ s.DeliveryKept (polarityOf s.active) :=
  ⟨fun h => ⟨h.ports, h.closedBefore, h.driven, fun p cfg hc => h.polarity cfg hc p⟩,
   fun h => ⟨h.ports, h.closedBefore, h.driven, fun cfg hc p => h.polarity p cfg hc⟩⟩

variable {pol : Port → Polarity → Prop}

/-- It reads the delivery records and the phase alone. -/
theorem State.DeliveryKept.of_eq {s t : State} (h : s.DeliveryKept pol) (hd : t.delivery = s.delivery)
    (hp : t.phase = s.phase) : t.DeliveryKept pol := by
  refine ⟨?_, ?_, ?_, ?_⟩
  · rw [hd]; exact h.ports
  · rw [hd, hp]; exact h.closedBefore
  · rw [hd, hp]; exact h.driven
  · rw [hd]; exact h.polarity

theorem State.DeliveryKept.weaken {s : State} (h : s.DeliveryKept pol) : s.DeliveryKept fun _ _ => True :=
  ⟨h.ports, h.closedBefore, h.driven, fun _ => trivial⟩

/-- A port's record replaced by a sound one. -/
theorem State.DeliveryKept.set {s : State} (h : s.DeliveryKept pol) {p : Port} {d : Delivery} (hd : d.Sound)
    (hc : s.phase ≠ .running → d.session = none) (hl : d.line.driven = (s.delivery.get p).line.driven)
    (hpol : d.line.polarity = (s.delivery.get p).line.polarity) : (s.setDeliveryOf p d).DeliveryKept pol := by
  have hg : ∀ q, (s.setDeliveryOf p d).delivery.get q = if q = p then d else s.delivery.get q :=
    fun q => PortMap.get_set _ _ _ _
  refine ⟨?_, ?_, ?_, ?_⟩
  · intro q; rw [hg]; split
    · exact hd
    · exact h.ports q
  · intro hp q; rw [hg]; split
    · exact hc hp
    · exact h.closedBefore hp q
  · intro q; rw [hg]; split
    · rename_i e; subst e; rw [hl]; exact h.driven _
    · exact h.driven q
  · intro q; rw [hg]; split
    · rename_i e; subst e; rw [hpol]; exact h.polarity _
    · exact h.polarity q

/-- An offer keeps the delivery unit sound (06 R91). -/
theorem State.DeliveryKept.offerTo {s : State} (h : s.DeliveryKept pol) (p : Port) (r : Report) :
    (s.offerTo p r).DeliveryKept pol := by
  unfold State.offerTo
  dsimp only
  split
  · exact h
  · rename_i se hs
    have hrun : s.phase = .running := by
      by_contra hne; rw [h.closedBefore hne p] at hs; cases hs
    split
    · rename_i ha
      have hline := (s.delivery.get p).append_line s.now s.stamp false r
      exact h.set (Delivery.append_sound (h.ports p) hs ha _ _ _) (fun hne => absurd hrun hne) hline.1 hline.2
    · rename_i ha
      refine (h.set (d := (s.delivery.get p).fold r)
        (Delivery.fold_sound (h.ports p) hs (by simpa using ha) r) (fun hne => absurd hrun hne) rfl rfl).of_eq ?_ ?_ <;> simp

theorem State.DeliveryKept.offerIfSubscribed {s : State} (h : s.DeliveryKept pol) (p : Port) (r : Report) :
    (s.offerIfSubscribed p r).DeliveryKept pol := by
  unfold State.offerIfSubscribed
  split
  · exact h
  · split
    · exact h.offerTo p r
    · exact h

/-- A property that every step of a fold keeps. -/
theorem foldl_inv {α σ : Type} {I : σ → Prop} (f : σ → α → σ) (hf : ∀ s x, I s → I (f s x)) :
    ∀ (l : List α) (s : σ), I s → I (l.foldl f s)
  | [], _, h => h
  | x :: xs, s, h => foldl_inv f hf xs (f s x) (hf s x h)

theorem State.DeliveryKept.offerAll {s : State} (h : s.DeliveryKept pol) (r : Report) : (s.offerAll r).DeliveryKept pol :=
  foldl_inv _ (fun _ p h => h.offerIfSubscribed p r) _ _ h

theorem State.DeliveryKept.trackerMoves {s : State} (h : s.DeliveryKept pol) (n : ChannelId)
    (x : Tracker × Option Report) : (s.trackerMoves n x).DeliveryKept pol := by
  unfold State.trackerMoves
  split
  · exact h.of_eq (by simp) (by simp)
  · exact (h.of_eq (t := s.setTracker n x.1) (by simp) (by simp)).offerAll _

theorem State.DeliveryKept.termMoves {s : State} (h : s.DeliveryKept pol) (k : TermId)
    (x : TermRecord × Option Report) : (s.termMoves k x).DeliveryKept pol := by
  unfold State.termMoves
  split
  · exact h.of_eq (by simp) (by simp)
  · exact (h.of_eq (t := s.setTerm k x.1) (by simp) (by simp)).offerAll _

theorem State.DeliveryKept.evaluateTerms {s : State} (h : s.DeliveryKept pol) : s.evaluateTerms.DeliveryKept pol := by
  refine foldl_inv _ (fun s k h => ?_) _ _ h
  unfold State.evaluateTerm
  dsimp only
  split
  · exact h.termMoves _ _
  · exact h

theorem State.DeliveryKept.resetTerms {s : State} (h : s.DeliveryKept pol) (old new : Configuration) :
    (s.resetTerms old new).DeliveryKept pol := by
  refine foldl_inv _ (fun s k h => ?_) _ _ h
  unfold State.resetTerm
  dsimp only
  split
  · exact h
  · exact h.termMoves _ _

theorem State.DeliveryKept.realignChannels {s : State} (h : s.DeliveryKept pol) (old new : Configuration) :
    (s.realignChannels old new).DeliveryKept pol := by
  refine foldl_inv _ (fun s k h => ?_) _ _ h
  unfold State.realignChannel
  dsimp only
  split
  · exact h
  · split
    · exact h.of_eq (by simp) (by simp)
    · exact h.trackerMoves _ _

theorem State.DeliveryKept.trackerTakes {s : State} (h : s.DeliveryKept pol) (n : ChannelId) (raw : Nat) (b : Bool) :
    (s.trackerTakes n raw b).DeliveryKept pol := by
  unfold State.trackerTakes
  split
  · exact h.trackerMoves _ _
  · exact (h.of_eq (t := s.countOutOfRange n) (by simp) (by simp)).trackerMoves _ _

theorem State.DeliveryKept.closeSweep {s : State} (h : s.DeliveryKept pol) : s.closeSweep.DeliveryKept pol :=
  (h.of_eq (t := s.setSequencer { s.sequencer with position := none }) (by simp) (by simp)).evaluateTerms

theorem State.DeliveryKept.placeOrClose {s : State} (h : s.DeliveryKept pol) (o : Option ChannelId) :
    (s.placeOrClose o).DeliveryKept pol := by
  unfold State.placeOrClose
  split
  · exact h.of_eq (by simp) (by simp)
  · exact h.closeSweep

theorem State.DeliveryKept.sequencerActs {s : State} (h : s.DeliveryKept pol) (claim : BitVec 32) :
    (s.sequencerActs claim).DeliveryKept pol := by
  unfold State.sequencerActs
  split
  · exact h
  · split
    · exact h.placeOrClose _
    · exact h

/-- The polarities applied: each line is driven at the polarity of its port's profile (05 R85). -/
theorem State.applyPolarities_get (s : State) (p : Port) :
    s.applyPolarities.delivery.get p =
      { s.delivery.get p with line := { (s.delivery.get p).line with polarity := (s.config.ports.get p).polarity } } := by
  cases p <;> rfl

theorem Delivery.Sound.repolarise {d : Delivery} (h : d.Sound) (polarity : Polarity) :
    ({ d with line := { d.line with polarity := polarity } } : Delivery).Sound :=
  ⟨h.capacity, h.lapsedFull, h.readFirst, h.sequences, h.closed, h.threshold, h.level, h.pulse⟩

/-- A port that is closed. -/
theorem Delivery.closed_sound (line : AttentionLine) (ha : line.active = false) (hp : line.pulseEnd = none)
    (ho : line.overtaken = none) : (Delivery.closed line).Sound where
  capacity := by simp [Delivery.closed]
  lapsedFull := by simp [Delivery.closed]
  readFirst := by simp [Delivery.closed]
  sequences := ⟨(by decide : (1 : BitVec 16) ≠ 0), 1, rfl⟩
  closed := fun _ => ⟨rfl, rfl, rfl, rfl, ha, hp, ho, rfl⟩
  threshold := by simp [Delivery.closed]
  level := by simp [Delivery.closed]
  pulse := by simp [Delivery.closed]

/-- A port whose session has just been opened or re-opened (05 R73, R74). -/
theorem Delivery.opened_sound (line : AttentionLine) (ha : line.active = false) (hp : line.pulseEnd = none)
    (ho : line.overtaken = none) (reopened : Option Nat) (se : Session) (h1 : 1 ≤ se.threshold) (h2 : se.threshold ≤ 32)
    (hr : se.rearm = match se.mode with | .level => none | .pulse => some .armed) :
    ({ Delivery.closed line with session := some se, reopened := reopened } : Delivery).Sound where
  capacity := by simp [Delivery.closed]
  lapsedFull := by simp [Delivery.closed]
  readFirst := by simp [Delivery.closed]
  sequences := ⟨(by decide : (1 : BitVec 16) ≠ 0), 1, rfl⟩
  closed := by simp
  threshold := by intro s hs; cases hs; exact ⟨h1, h2⟩
  level := by
    intro s hs hm; cases hs
    refine ⟨by rw [hr, hm], hp, ho, .inl ?_⟩
    have : ¬ se.threshold ≤ 0 := by omega
    simp [Delivery.closed, ha, Delivery.unread, this]
  pulse := by
    intro s hs hm; cases hs
    refine ⟨by simp [Delivery.closed, ha, hp], ?_, fun _ => ho⟩
    have : 0 < se.threshold := by omega
    rw [hr, hm]
    simp [Delivery.closed, Delivery.unread, this]

/-- SUBSCRIBE (05 R80): masks and pruning leave the queue and the line. -/
theorem Delivery.subscribe_sound {d : Delivery} (h : d.Sound) {se : Session} (hs : d.session = some se)
    (channels : BitVec 24) (terms : BitVec 16) (classes : Byte) : (d.subscribe channels terms classes).Sound where
  capacity := h.capacity
  lapsedFull := by
    intro hne
    apply h.lapsedFull
    intro he
    apply hne
    simp only [Delivery.subscribe, he, Lapsed.prune, Lapsed.empty]
    simp
  readFirst := h.readFirst
  sequences := h.sequences
  closed := by simp [Delivery.subscribe, hs]
  threshold := by
    intro s hs'; simp only [Delivery.subscribe, hs, Option.map_some, Option.some.injEq] at hs'; subst hs'
    exact h.threshold se hs
  level := by
    intro s hs' hm; simp only [Delivery.subscribe, hs, Option.map_some, Option.some.injEq] at hs'; subst hs'
    exact h.level se hs hm
  pulse := by
    intro s hs' hm; simp only [Delivery.subscribe, hs, Option.map_some, Option.some.injEq] at hs'; subst hs'
    exact h.pulse se hs hm

/-- The end of a pulse (05 R87). -/
theorem Delivery.quiet_sound {d : Delivery} (h : d.Sound) {t : Nat} (ht : d.line.pulseEnd = some t) :
    ({ d with line := d.line.quiet } : Delivery).Sound where
  capacity := h.capacity
  lapsedFull := h.lapsedFull
  readFirst := h.readFirst
  sequences := h.sequences
  closed := by
    intro hn; have := h.closed hn
    exact ⟨this.1, this.2.1, this.2.2.1, this.2.2.2.1, rfl, rfl, rfl, this.2.2.2.2.2.2.2⟩
  threshold := h.threshold
  level := by
    intro se hs hm
    have := h.level se hs hm
    rw [this.2.1] at ht; cases ht
  pulse := by
    intro se hs hm
    exact ⟨rfl, (h.pulse se hs hm).2.1, fun _ => rfl⟩

end Sys2Proof.Machine
end

