-- ==== Sys2Proof/Laws/OpenSessions.lean ====
section
/-! SUPPORT. `SameOpen`: which operations leave every open session open, and the soundness of the lease record with it. -/

namespace Sys2Proof.Machine

/-- No session that was open has been closed. -/
def SameOpen (s t : State) : Prop := ∀ p, (t.delivery.get p).session = none → (s.delivery.get p).session = none

theorem Delivery.append_open (d : Delivery) (n st r x) (h : (d.append n st r x).session = none) : d.session = none := by
  rw [← Option.isNone_iff_eq_none, ← Option.not_isSome, ← d.append_session n st r x, h]; rfl

theorem Delivery.lineAfterRead_isOpen (d : Delivery) (now : Nat) (h : (d.lineAfterRead now).session = none) :
    d.session = none := by
  rw [← Option.isNone_iff_eq_none, ← Option.not_isSome, ← (d.lineAfterRead_rest now).2.2.2.2.1, h]; rfl

theorem SameOpen.set {s : State} {p : Port} {d : Delivery} (h : d.session = none → (s.delivery.get p).session = none) : SameOpen s (s.setDeliveryOf p d) := by
  intro q hq
  change ((s.delivery.set p d).get q).session = none at hq
  rw [PortMap.get_set] at hq
  split at hq
  · rename_i e; subst e; exact h hq
  · exact hq
theorem SameOpen.trans {s t u : State} (h : SameOpen s t) (g : SameOpen t u) : SameOpen s u := fun p hp => h p (g p hp)
theorem SameOpen.of_eq {s t : State} (h : t.delivery = s.delivery) : SameOpen s t := by intro p; rw [h]; exact id

theorem SameOpen.offerTo (s : State) (p r) : SameOpen s (s.offerTo p r) := by
  unfold State.offerTo; dsimp only
  split
  · exact fun _ => id
  · split
    · exact SameOpen.set (Delivery.append_open _ _ _ _ _)
    · exact (SameOpen.set (d := (s.delivery.get p).fold r) (fun h => h)).trans (SameOpen.of_eq rfl)

theorem SameOpen.foldl {α} (f : State → α → State) (hf : ∀ s x, SameOpen s (f s x)) (l : List α) (s : State) : SameOpen s (l.foldl f s) := by
  induction l generalizing s with
  | nil => exact fun _ => id
  | cons a l ih => exact (hf s a).trans (ih _)

theorem SameOpen.offerAll (s : State) (r) : SameOpen s (s.offerAll r) :=
  SameOpen.foldl _ (by intro s p; unfold State.offerIfSubscribed; split; exact fun _ => id; split; exact SameOpen.offerTo _ _ _; exact fun _ => id) _ _
theorem SameOpen.trackerMoves (s : State) (n x) : SameOpen s (s.trackerMoves n x) := by
  unfold State.trackerMoves; split
  · exact fun _ => id
  · exact (SameOpen.of_eq rfl).trans (SameOpen.offerAll _ _)
theorem SameOpen.termMoves (s : State) (n x) : SameOpen s (s.termMoves n x) := by
  unfold State.termMoves; split
  · exact fun _ => id
  · exact (SameOpen.of_eq rfl).trans (SameOpen.offerAll _ _)
theorem SameOpen.evaluateTerms (s : State) : SameOpen s s.evaluateTerms := 
  SameOpen.foldl State.evaluateTerm (by intro s k; unfold State.evaluateTerm; dsimp only; split; exact SameOpen.termMoves _ _ _; exact fun _ => id) TermId.all s
theorem SameOpen.placeOrClose (s : State) (o) : SameOpen s (s.placeOrClose o) := by
  unfold State.placeOrClose; split
  · exact fun _ => id
  · exact (SameOpen.of_eq (t := s.setSequencer { s.sequencer with position := none }) rfl).trans (SameOpen.evaluateTerms _)
theorem SameOpen.sequencerActs (s : State) (c) : SameOpen s (s.sequencerActs c) := by
  unfold State.sequencerActs; split
  · exact fun _ => id
  · split
    · exact SameOpen.placeOrClose _ _
    · exact fun _ => id

/-- The drain of a lapsed set keeps the session. -/
theorem State.drain_open (s : State) (d : Delivery) (h : (s.drain d).session = none) : d.session = none := by
  have key : ∀ (l : List Member) (d : Delivery), (l.foldl s.drainMember d).session = none → d.session = none := by
    intro l
    induction l with
    | nil => exact fun _ => id
    | cons m l ih =>
      intro d hd
      have := ih _ hd
      unfold State.drainMember at this
      split at this
      · split at this
        · exact this
        · simpa using Delivery.append_open _ _ _ _ _ this
      · exact this
  exact key drainOrder d h

theorem State.isOpen.of {s t : State} {p : Port} (h : s.isOpen p) (hs : SameOpen s t) : t.isOpen p := by
  obtain ⟨se, hse⟩ := h
  refine Option.ne_none_iff_exists'.1 (fun e => ?_)
  exact absurd (hse.symm.trans (hs p e)) (by simp)

theorem State.leaseSound_of {s t : State} {cfg} (h : s.leaseSound cfg) (hl : t.lease = s.lease) (hs : SameOpen s t) : t.leaseSound cfg := by
  cases e : s.lease <;> (have e2 := hl.trans e; simp only [State.leaseSound, e] at h; simp only [State.leaseSound, e2])
  · exact ⟨h.1.of hs, h.2⟩
  · exact ⟨fun p hp => (h.1 p hp).of hs, h.2⟩

theorem SameOpen.commitSteps (s : State) (staging holder) : SameOpen s (((s.commitSteps staging).offerCommitted holder).settleLease holder) := by
      have a1 : SameOpen s (((s.enactStaging staging).offerAll (.epoch (s.enactStaging staging).epoch)).realignChannels s.config staging) := by
        refine (SameOpen.trans (t := s.enactStaging staging) (SameOpen.of_eq rfl) (SameOpen.offerAll (s.enactStaging staging) (.epoch (s.enactStaging staging).epoch))).trans ?_
        refine SameOpen.foldl _ ?_ _ _
        intro s n; unfold State.realignChannel; dsimp only; split
        · exact fun _ => id
        · split
          · exact fun _ => id
          · exact SameOpen.trackerMoves _ _ _
      have a2 : SameOpen s ((((s.enactStaging staging).offerAll (.epoch (s.enactStaging staging).epoch)).realignChannels s.config staging).resetTerms s.config staging) := by
        refine a1.trans ?_
        refine SameOpen.foldl _ ?_ _ _
        intro s n; unfold State.resetTerm; dsimp only; split
        · exact fun _ => id
        · exact SameOpen.termMoves _ _ _
      have a3 : SameOpen s (s.commitSteps staging) := by
        refine a2.trans ?_
        intro p hp
        change ((((((s.enactStaging staging).offerAll (.epoch (s.enactStaging staging).epoch)).realignChannels s.config staging).resetTerms s.config staging).completeOffSamples.applyPolarities).delivery.get p).session = none at hp
        rw [State.applyPolarities_get] at hp
        simpa using hp
      have a4 : SameOpen s ((s.commitSteps staging).offerCommitted holder) := by
        unfold State.offerCommitted; split
        · exact a3.trans (SameOpen.offerTo _ _ _)
        · exact a3
      cases holder <;> exact a4.trans (SameOpen.of_eq (by simp [State.settleLease]))


end Sys2Proof.Machine
end

