-- ==== Sys2Proof/Laws/FreshTable.lean ====
section
/-! SUPPORT. The fresh-sample table under the operations that change it: new, freed and completed entries, and the arbiter. -/

namespace Sys2Proof.Machine

/-- `State.FreshSound` but for its clause on MEASURING entries. -/
structure State.Table (s : State) : Prop where
  six : s.fresh.length ≤ 6
  two : ∀ p, (s.fresh.filter fun e => decide (e.owner = p)).length ≤ 2
  tags : s.fresh.Pairwise fun a b => ¬(a.owner = b.owner ∧ a.tag = b.tag)
  nonzero : ∀ e ∈ s.fresh, e.tag ≠ 0
  closed : ∀ p, (s.delivery.get p).session = none → ∀ e ∈ s.fresh, e.owner ≠ p

theorem State.FreshSound.table {s : State} (h : s.FreshSound) : s.Table := ⟨h.1, h.2, h.3, h.4, h.5⟩

theorem State.Table.of_eq {s t : State} (h : s.Table) (h1 : t.fresh = s.fresh) (h3 : SameOpen s t) : t.Table := by
  constructor <;> rw [h1]
  · exact h.six
  · exact h.two
  · exact h.tags
  · exact h.nonzero
  · intro p hp; exact h.closed p (h3 p hp)

theorem State.Table.map {s t : State} (h : s.Table) (f : FreshEntry → FreshEntry)
    (hf : ∀ e, (f e).owner = e.owner ∧ (f e).tag = e.tag) (ht : t.fresh = s.fresh.map f) (h3 : SameOpen s t) : t.Table := by
  constructor <;> rw [ht]
  · simpa using h.six
  · intro p
    rw [List.filter_map, List.length_map]
    have : ((fun e : FreshEntry => decide (e.owner = p)) ∘ f) = fun e => decide (e.owner = p) := by
      funext e; simp [hf]
    rw [this]; exact h.two p
  · rw [List.pairwise_map]
    exact h.tags.imp (by intro a b hab; rw [(hf a).1, (hf a).2, (hf b).1, (hf b).2]; exact hab)
  · intro e he; obtain ⟨a, ha, rfl⟩ := List.mem_map.1 he; rw [(hf a).2]; exact h.nonzero a ha
  · intro p hp e he; obtain ⟨a, ha, rfl⟩ := List.mem_map.1 he; rw [(hf a).1]; exact h.closed p (h3 p hp) a ha

theorem State.Table.filter {s t : State} (h : s.Table) (f : FreshEntry → Bool)
    (ht : t.fresh = s.fresh.filter f) (hc : ∀ p, (t.delivery.get p).session = none → (s.delivery.get p).session = none ∨ ∀ e, f e = true → e.owner ≠ p) : t.Table := by
  constructor <;> rw [ht]
  · exact (List.length_filter_le _ _).trans h.six
  · intro p; rw [List.filter_comm]; exact (List.length_filter_le _ _).trans (h.two p)
  · exact h.tags.filter _
  · intro e he; exact h.nonzero e (List.mem_filter.1 he).1
  · intro p hp e he
    have := List.mem_filter.1 he
    rcases hc p hp with hc | hc
    · exact h.closed p hc e this.1
    · exact hc e this.2

theorem FreshEntry.joinClaim_keeps (n : ChannelId) (e : FreshEntry) : (e.joinClaim n).owner = e.owner ∧ (e.joinClaim n).tag = e.tag ∧ (e.joinClaim n).channel = e.channel := by
  unfold FreshEntry.joinClaim; split <;> exact ⟨rfl, rfl, rfl⟩
theorem FreshEntry.complete_keeps (n : ChannelId) (r d) (e : FreshEntry) : (e.complete n r d).owner = e.owner ∧ (e.complete n r d).tag = e.tag ∧ (e.complete n r d).channel = e.channel := by
  unfold FreshEntry.complete; split <;> exact ⟨rfl, rfl, rfl⟩
theorem FreshEntry.completeOff_keeps (f d) (e : FreshEntry) : (e.completeOff f d).owner = e.owner ∧ (e.completeOff f d).tag = e.tag ∧ (e.completeOff f d).channel = e.channel := by
  unfold FreshEntry.completeOff; split <;> exact ⟨rfl, rfl, rfl⟩

theorem State.consult_fresh_sound {s : State} (h : s.Table) (hm : ∀ e ∈ s.fresh, e.state = .measuring → ∃ m, s.unit = some m ∧ m.kind = .fresh ∧ m.channel = e.channel) : s.consult.FreshSound := by
  have keep : s.FreshSound := ⟨h.1, h.2, h.3, h.4, h.5, hm⟩
  unfold State.consult
  split
  · exact keep
  · rename_i hu
    have hno : ∀ e ∈ s.fresh, e.state ≠ .measuring := by
      intro e he hme; obtain ⟨m, h1, _⟩ := hm e he hme; rw [hu] at h1; cases h1
    have sw : ∀ n, (s.beginSweepClaim n).FreshSound := by
      intro n; exact ⟨h.1, h.2, h.3, h.4, h.5, fun e he hme => absurd hme (hno e he)⟩
    split
    · exact keep
    · exact sw _
    · split
      · rename_i e0 _
        have ht : (s.beginFreshClaim e0.channel).Table := h.map (·.joinClaim e0.channel) (fun e => ⟨(FreshEntry.joinClaim_keeps _ e).1, (FreshEntry.joinClaim_keeps _ e).2.1⟩) rfl (fun p hp => hp)
        refine ⟨ht.1, ht.2, ht.3, ht.4, ht.5, ?_⟩
        intro e he hme
        obtain ⟨a, ha, rfl⟩ := List.mem_map.1 he
        refine ⟨_, rfl, rfl, ?_⟩
        rw [(FreshEntry.joinClaim_keeps _ a).2.2]
        unfold FreshEntry.joinClaim at hme
        split at hme
        · rename_i hc; exact hc.1.symm
        · exact absurd hme (hno a ha)
      · exact sw _
      · exact keep


end Sys2Proof.Machine
end

