-- ==== Sys2Proof/Laws/Images.lean ====
section
/-! SUPPORT. The image slots: replacing one, and the target and generation a store takes. -/

namespace Sys2Proof.Machine

theorem Slot.content_generation {x : Slot} {cfg : Configuration} (h : x.content = some cfg) :
    1 ≤ x.generation.toNat ∧ x.generation.toNat ≤ 4294967294 := by
  unfold Slot.content at h
  split at h
  · cases h
  · split at h
    · rename_i hc; exact ⟨hc.2.1, hc.2.2.1⟩
    · cases h

/-- When a slot is valid, and with which configuration (09 R155). -/
theorem ImageStore.validContent_eq_some (im : ImageStore) (id : SlotId) (cfg : Configuration) :
    im.validContent id = some cfg ↔
      (∀ r, im.store = some r → r.target ≠ id) ∧ (im.slot id).configuration = some cfg ∧
      (im.slot id).check = some (Config.crc16 (im.slot id).generation cfg) ∧
      1 ≤ (im.slot id).generation.toNat ∧ (im.slot id).generation.toNat ≤ 4294967294 ∧ configValid cfg = true := by
  have htarget : im.isTarget id = false ↔ ∀ r, im.store = some r → r.target ≠ id := by
    unfold ImageStore.isTarget; cases im.store <;> simp
  have hcontent : (im.slot id).content = some cfg ↔ (im.slot id).configuration = some cfg ∧
      (im.slot id).check = some (Config.crc16 (im.slot id).generation cfg) ∧
      1 ≤ (im.slot id).generation.toNat ∧ (im.slot id).generation.toNat ≤ 4294967294 ∧ configValid cfg = true := by
    unfold Slot.content
    cases (im.slot id).configuration with
    | none => simp
    | some c =>
      dsimp only
      constructor
      · intro h; split at h
        · rename_i hc; cases h; exact ⟨rfl, hc⟩
        · cases h
      · rintro ⟨e, hc⟩; cases e; rw [if_pos hc]
  unfold ImageStore.validContent
  rw [← htarget, ← hcontent]
  cases im.isTarget id <;> simp

@[simp] theorem ImageStore.slot_setSlot_same (im : ImageStore) (id : SlotId) (x : Slot) : (im.setSlot id x).slot id = x := by cases id <;> rfl
@[simp] theorem ImageStore.slot_setSlot_other (im : ImageStore) (id : SlotId) (x : Slot) : (im.setSlot id x).slot id.other = im.slot id.other := by cases id <;> rfl

theorem Slot.next_generation {x : Slot} {cfg : Configuration} (hx : x.content = some cfg) (hne : x.generation ≠ 4294967294#32) :
    1 ≤ (x.generation + 1).toNat ∧ (x.generation + 1).toNat ≤ 4294967294 ∧ x.generation.toNat < (x.generation + 1).toNat := by
  have := Slot.content_generation hx
  have h2 : x.generation.toNat ≠ 4294967294 := fun e => hne (BitVec.eq_of_toNat_eq (by simpa using e))
  have h3 : (x.generation + 1).toNat = x.generation.toNat + 1 := by rw [BitVec.toNat_add]; simp; omega
  omega

theorem ImageStore.nextTarget_newer (im : ImageStore) (hs : im.store = none) (hg : im.newestGeneration ≠ some 4294967294#32) :
    1 ≤ im.nextTarget.2.toNat ∧ im.nextTarget.2.toNat ≤ 4294967294 ∧
    ∀ cfg, (im.slot im.nextTarget.1.other).content = some cfg → (im.slot im.nextTarget.1.other).generation.toNat < im.nextTarget.2.toNat := by
  have hn : ∀ id, im.validContent id = (im.slot id).content := by
    intro id; unfold ImageStore.validContent ImageStore.isTarget; rw [hs]; simp
  unfold ImageStore.newestGeneration at hg
  have h0' := hn .slot0
  have h1' := hn .slot1
  unfold ImageStore.nextTarget
  have key : ∀ id cfg, im.newest = some (id, cfg) → (im.slot id).content ≠ none := by
    intro id cfg h
    unfold ImageStore.newest at h
    rw [h0', h1'] at h
    split at h
    · cases h
    · rename_i e _; cases h; rw [e]; simp
    · rename_i e; cases h; rw [e]; simp
    · rename_i e0 e1; split at h <;> cases h
      · rw [e1]; simp
      · rw [e0]; simp
  rcases hnew : im.newest with _ | ⟨_ | _, cfg⟩
  · refine ⟨by simp, by simp, ?_⟩
    intro cfg hc
    exfalso
    change (im.slot .slot1).content = _ at hc
    unfold ImageStore.newest at hnew
    rw [h0', h1', hc] at hnew
    split at hnew <;> simp_all
    split at hnew <;> simp at hnew
  · have hc := key _ _ hnew
    obtain ⟨c, hc⟩ := Option.ne_none_iff_exists'.1 hc
    have := Slot.next_generation hc (fun e => hg (by rw [hnew]; simp [e]))
    exact ⟨this.1, this.2.1, fun _ _ => this.2.2⟩
  · have hc := key _ _ hnew
    obtain ⟨c, hc⟩ := Option.ne_none_iff_exists'.1 hc
    have := Slot.next_generation hc (fun e => hg (by rw [hnew]; simp [e]))
    exact ⟨this.1, this.2.1, fun _ _ => this.2.2⟩

end Sys2Proof.Machine
end

