-- ==== Sys2Proof/Laws/PerInstr.lean ====
section
/-! SUPPORT. One family of statements made command by command: the message of a well-formed command, if it has one, is framed as
10 R173 and R179 ask (its length byte counts the bytes after it, it fits the receive buffer, its sum is 0 modulo 256). -/

namespace Sys2Proof.Laws

open Sys2Proof

/-- The message of a command, if it has one, passes the frame and check-byte checks of 10 R173. -/
def MessageFrame.Statement (i : Instr) : Prop :=
  i.wellFormed = true → ∀ message, encodeMessage i = some message →
    4 ≤ message.length ∧ message.length ≤ 41 ∧ message.head? = some (BitVec.ofNat 8 (message.length - 1)) ∧
    byteSum message = 0

theorem byteSum_append (xs ys : List Byte) : byteSum (xs ++ ys) = byteSum xs + byteSum ys := by
  induction xs with
  | nil => simp [byteSum]
  | cons x xs ih => simp [byteSum, ih, BitVec.add_assoc]

/-- Whatever the code, the tag and at most 37 parameter bytes, the message is framed. -/
theorem frame_of_parts {i : Instr} {code tag : Byte} {params : List Byte}
    (h : requestParts i = some (code, tag, params)) (fit : i.wellFormed = true → params.length ≤ 37) :
    MessageFrame.Statement i := by
  intro wf message hm
  have hfit := fit wf
  simp only [encodeMessage, h, Option.some.injEq] at hm
  subst hm
  refine ⟨by simp, by simp; omega, by simp, ?_⟩
  rw [byteSum_append]
  simp only [checkByte, byteSum]
  bv_omega

/-- A command that is no request has no message. -/
theorem frame_of_none {i : Instr} (h : requestParts i = none) : MessageFrame.Statement i := by
  intro _ message hm
  simp [encodeMessage, h] at hm

theorem MessageFrame.openSession (p : Port) (tag : Byte) (channels : BitVec 24) (terms : BitVec 16) (classes mode threshold : Byte) :
    Statement (.openSession p tag channels terms classes mode threshold) := frame_of_parts rfl (fun _ => Nat.le_of_ble_eq_true rfl)

theorem MessageFrame.closeSession (p : Port) (tag : Byte) :
    Statement (.closeSession p tag) := frame_of_parts rfl (fun _ => Nat.le_of_ble_eq_true rfl)

theorem MessageFrame.subscribe (p : Port) (tag : Byte) (channels : BitVec 24) (terms : BitVec 16) (classes : Byte) :
    Statement (.subscribe p tag channels terms classes) := frame_of_parts rfl (fun _ => Nat.le_of_ble_eq_true rfl)

theorem MessageFrame.readState (p : Port) (tag : Byte) :
    Statement (.readState p tag) := frame_of_parts rfl (fun _ => Nat.le_of_ble_eq_true rfl)

theorem MessageFrame.readTracker (p : Port) (tag : Byte) (channel : Byte) :
    Statement (.readTracker p tag channel) := frame_of_parts rfl (fun _ => Nat.le_of_ble_eq_true rfl)

theorem MessageFrame.readEvents (p : Port) (tag : Byte) (count mode : Byte) :
    Statement (.readEvents p tag count mode) := frame_of_parts rfl (fun _ => Nat.le_of_ble_eq_true rfl)

theorem MessageFrame.ackEvents (p : Port) (tag : Byte) (sequence : BitVec 16) :
    Statement (.ackEvents p tag sequence) := frame_of_parts rfl (fun _ => Nat.le_of_ble_eq_true rfl)

theorem MessageFrame.sample (p : Port) (tag : Byte) (channel sampleTag : Byte) :
    Statement (.sample p tag channel sampleTag) := frame_of_parts rfl (fun _ => Nat.le_of_ble_eq_true rfl)

theorem MessageFrame.fetch (p : Port) (tag : Byte) (sampleTag : Byte) :
    Statement (.fetch p tag sampleTag) := frame_of_parts rfl (fun _ => Nat.le_of_ble_eq_true rfl)

theorem MessageFrame.cancel (p : Port) (tag : Byte) (sampleTag : Byte) :
    Statement (.cancel p tag sampleTag) := frame_of_parts rfl (fun _ => Nat.le_of_ble_eq_true rfl)

theorem MessageFrame.takeLease (p : Port) (tag : Byte) (preempt : Byte) :
    Statement (.takeLease p tag preempt) := frame_of_parts rfl (fun _ => Nat.le_of_ble_eq_true rfl)

theorem MessageFrame.releaseLease (p : Port) (tag : Byte) :
    Statement (.releaseLease p tag) := frame_of_parts rfl (fun _ => Nat.le_of_ble_eq_true rfl)

theorem MessageFrame.setChannel (p : Port) (tag : Byte) (channel : Byte) (profile : ChannelParams) :
    Statement (.setChannel p tag channel profile) := frame_of_parts rfl (fun _ => Nat.le_of_ble_eq_true rfl)

theorem MessageFrame.setScanlist (p : Port) (tag : Byte) (entries : List Byte) :
    Statement (.setScanlist p tag entries) := frame_of_parts rfl
    (fun wf => by have : entries.length ≤ 36 := of_decide_eq_true wf; simp; omega)

theorem MessageFrame.setTerm (p : Port) (tag : Byte) (term : Byte) (definition : TermParams) :
    Statement (.setTerm p tag term definition) := frame_of_parts rfl
    (fun wf => by have : definition.inputs.length ≤ 31 := of_decide_eq_true wf; simp; omega)

theorem MessageFrame.setHub (p : Port) (tag : Byte) (period : BitVec 16) (startMode leaseSteps : Byte) :
    Statement (.setHub p tag period startMode leaseSteps) := frame_of_parts rfl (fun _ => Nat.le_of_ble_eq_true rfl)

theorem MessageFrame.setPort (p : Port) (tag : Byte) (port rank polarity : Byte) :
    Statement (.setPort p tag port rank polarity) := frame_of_parts rfl (fun _ => Nat.le_of_ble_eq_true rfl)

theorem MessageFrame.loadStaging (p : Port) (tag : Byte) (source : Byte) :
    Statement (.loadStaging p tag source) := frame_of_parts rfl (fun _ => Nat.le_of_ble_eq_true rfl)

theorem MessageFrame.readStaging (p : Port) (tag : Byte) (item : Byte) :
    Statement (.readStaging p tag item) := frame_of_parts rfl (fun _ => Nat.le_of_ble_eq_true rfl)

theorem MessageFrame.readConfig (p : Port) (tag : Byte) (item : Byte) :
    Statement (.readConfig p tag item) := frame_of_parts rfl (fun _ => Nat.le_of_ble_eq_true rfl)

theorem MessageFrame.commit (p : Port) (tag : Byte) :
    Statement (.commit p tag) := frame_of_parts rfl (fun _ => Nat.le_of_ble_eq_true rfl)

theorem MessageFrame.halt (p : Port) (tag : Byte) :
    Statement (.halt p tag) := frame_of_parts rfl (fun _ => Nat.le_of_ble_eq_true rfl)

theorem MessageFrame.resume (p : Port) (tag : Byte) :
    Statement (.resume p tag) := frame_of_parts rfl (fun _ => Nat.le_of_ble_eq_true rfl)

theorem MessageFrame.store (p : Port) (tag : Byte) :
    Statement (.store p tag) := frame_of_parts rfl (fun _ => Nat.le_of_ble_eq_true rfl)

theorem MessageFrame.restart (p : Port) (tag : Byte) :
    Statement (.restart p tag) := frame_of_parts rfl (fun _ => Nat.le_of_ble_eq_true rfl)

theorem MessageFrame.readStatus (p : Port) (tag : Byte) :
    Statement (.readStatus p tag) := frame_of_parts rfl (fun _ => Nat.le_of_ble_eq_true rfl)

theorem MessageFrame.clearCounters (p : Port) (tag : Byte) :
    Statement (.clearCounters p tag) := frame_of_parts rfl (fun _ => Nat.le_of_ble_eq_true rfl)

theorem MessageFrame.identify (p : Port) (tag : Byte) :
    Statement (.identify p tag) := frame_of_parts rfl (fun _ => Nat.le_of_ble_eq_true rfl)

theorem MessageFrame.transportRefusal (p : Port) (message : List Byte) (overflow : Bool) :
    Statement (.transportRefusal p message overflow) := frame_of_none rfl

theorem MessageFrame.transactionStart (p : Port) (address : BitVec 7) (direction : Direction) (written : List Byte) :
    Statement (.transactionStart p address direction written) := frame_of_none rfl

theorem MessageFrame.transactionEnd (p : Port) :
    Statement (.transactionEnd p) := frame_of_none rfl

theorem MessageFrame.measurementComplete (raw : BitVec 16) :
    Statement (.measurementComplete raw) := frame_of_none rfl

theorem MessageFrame.sweepTick :
    Statement .sweepTick := frame_of_none rfl

theorem MessageFrame.commitPoint :
    Statement .commitPoint := frame_of_none rfl

theorem MessageFrame.holdLimitExpiry (channel : ChannelId) :
    Statement (.holdLimitExpiry channel) := frame_of_none rfl

theorem MessageFrame.discardTimerExpiry (p : Port) (sampleTag : Byte) :
    Statement (.discardTimerExpiry p sampleTag) := frame_of_none rfl

theorem MessageFrame.leaseTimerExpiry :
    Statement .leaseTimerExpiry := frame_of_none rfl

theorem MessageFrame.restartDelayExpiry (straps : Straps) :
    Statement (.restartDelayExpiry straps) := frame_of_none rfl

theorem MessageFrame.erasingEnd :
    Statement .erasingEnd := frame_of_none rfl

theorem MessageFrame.programmingEnd :
    Statement .programmingEnd := frame_of_none rfl

theorem MessageFrame.verifyingEnd (generation : BitVec 32) (readBack : Option Configuration) :
    Statement (.verifyingEnd generation readBack) := frame_of_none rfl

theorem MessageFrame.supplyLow :
    Statement .supplyLow := frame_of_none rfl

theorem MessageFrame.supplyGood :
    Statement .supplyGood := frame_of_none rfl

theorem MessageFrame.powerReset :
    Statement .powerReset := frame_of_none rfl

theorem MessageFrame.lineReset :
    Statement .lineReset := frame_of_none rfl

theorem MessageFrame.resetEnd (straps : Straps) :
    Statement (.resetEnd straps) := frame_of_none rfl

theorem MessageFrame.startUpLoadComplete :
    Statement .startUpLoadComplete := frame_of_none rfl

theorem MessageFrame.pulseEnd (p : Port) :
    Statement (.pulseEnd p) := frame_of_none rfl

end Sys2Proof.Laws
end

