-- ==== Sys2Proof/Laws/Ports.lean ====
section
/-! SUPPORT. What a port interface acknowledges, and what the bytes of a write transaction leave in it (10 R169, R172). -/

namespace Sys2Proof.Machine

/-- Which address a port acknowledges, and when (09 R159, 10 R169). -/
theorem State.acknowledgesAddress_iff (s : State) (p : Port) (address : BitVec 7) :
    s.acknowledgesAddress p address = true ↔ s.phase = .running ∧ address = (s.ports.get p).address := by
  unfold State.acknowledgesAddress
  split <;> simp_all

/-- Which data byte a port acknowledges (10 R172). -/
theorem PortInterface.acknowledgesByte_iff (i : PortInterface) :
    i.acknowledgesByte = true ↔ i.indication = .write ∧ i.buffer.length < 41 := by
  unfold PortInterface.acknowledgesByte bufferCapacity
  split <;> simp_all

/-- The bytes written after others in a write transaction: stored up to the buffer's 41 bytes, and the mark set by one more. -/
theorem PortInterface.receiveBytes (i : PortInterface) (hw : i.indication = .write) (hb : i.buffer.length ≤ 41)
    (written : List Byte) :
    written.foldl PortInterface.receiveByte i =
      { i with
        buffer := i.buffer ++ written.take (41 - i.buffer.length)
        overflow := i.overflow || decide (41 < i.buffer.length + written.length) } := by
  induction written generalizing i with
  | nil =>
    have : ¬ 41 < i.buffer.length := by omega
    simp [this]
  | cons b bs ih =>
    rw [List.foldl_cons]
    by_cases hroom : i.buffer.length < 41
    · have hr : i.receiveByte b = { i with buffer := i.buffer ++ [b] } := by
        unfold PortInterface.receiveByte
        rw [hw, (acknowledgesByte_iff i).2 ⟨hw, hroom⟩]; rfl
      rw [hr, ih { i with buffer := i.buffer ++ [b] } hw (by simp; omega)]
      obtain ⟨k, hk⟩ : ∃ k, 41 - i.buffer.length = k + 1 := ⟨41 - i.buffer.length - 1, by omega⟩
      have hk' : 41 - (i.buffer.length + 1) = k := by omega
      have hsum : i.buffer.length + 1 + bs.length = i.buffer.length + (bs.length + 1) := by omega
      simp [hk, hk', hsum]
    · have hr : i.receiveByte b = { i with overflow := true } := by
        unfold PortInterface.receiveByte
        have : i.acknowledgesByte = false := by
          rw [Bool.eq_false_iff]; intro h; exact hroom ((acknowledgesByte_iff i).1 h).2
        rw [hw, this]; rfl
      rw [hr, ih { i with overflow := true } hw hb]
      have hfull : 41 - i.buffer.length = 0 := by omega
      have hover : 41 < i.buffer.length + (bs.length + 1) := by omega
      simp [hfull, hover]

/-- What a write transaction's bytes leave in the interface (10 R172). -/
theorem PortInterface.begun_write (i : PortInterface) (written : List Byte) :
    i.begun .write written =
      { i with indication := .write, buffer := written.take 41, overflow := decide (41 < written.length) } := by
  unfold PortInterface.begun
  dsimp only
  rw [receiveBytes _ rfl (by simp)]
  simp

end Sys2Proof.Machine
end

