-- ==== Sys2Proof/Laws/Terms.lean ====
section
/-! SUPPORT. The terms: a term's step is sound, evaluation keeps every term sound, and what a commit point makes of each. -/

namespace Sys2Proof.Machine

theorem TermRecord.step_sound {r : TermRecord} {d : TermDefinition} (h : r.Sound d) (hd : d.enabled = true) (k number stamps) :
    (r.step k d number stamps).1.Sound d := by
  obtain ⟨h1, h2, h3, h4⟩ := h
  unfold TermRecord.step
  dsimp only
  split
  · exact ⟨h1, h2, h3, h4⟩
  · rename_i hs
    simp [hs] at h2 h4
    split
    · split
      · split
        · constructor <;> simp [enterTrue, hd]
        · constructor <;> simp [hd, h4]
          omega
      · constructor <;> simp [hd, h2, h4]
    · constructor <;> simp [hs, hd, h2, h4]
  · rename_i hs
    simp [hs] at h2 h4
    obtain ⟨c, hc⟩ := Option.ne_none_iff_exists'.1 (by simpa [Option.isSome_iff_ne_none] using h2)
    have := h3 c hc
    split
    · split
      · constructor <;> simp [enterTrue, hd]
      · rename_i hne
        rw [hc] at hne
        simp at hne
        constructor <;> simp [hs, hd, h4, hc]
        omega
    · constructor <;> simp [hd, h4]
  · rename_i hs
    split
    · exact ⟨h1, h2, h3, h4⟩
    · simp [hs] at h2 h4; constructor <;> simp [hd, h2]
  · rename_i hs
    split
    · simp [hs] at h2 h4; constructor <;> simp [hd, h2, h4]
    · exact ⟨h1, h2, h3, h4⟩

theorem blankTerm_sound (d : TermDefinition) : (blankTerm (termStartState d)).Sound d := by
  unfold termStartState
  cases hd : d.enabled <;> constructor <;> simp [blankTerm, hd]

theorem State.termMoves_terms (s : State) (k x) : (s.termMoves k x).terms = setAt s.terms k x.1 := by
  unfold State.termMoves; split
  · rfl
  · simp; rfl

/-- Every term is sound under its definition in a configuration. -/
def State.termsUnder (s : State) (cfg : Configuration) : Prop := ∀ k, (s.terms.get k).Sound (cfg.terms.get k)

theorem State.evaluateTerm_terms {s : State} {cfg} (ha : s.active = some cfg) (h : s.termsUnder cfg) (k) : (s.evaluateTerm k).termsUnder cfg := by
  unfold State.evaluateTerm
  have : s.config = cfg := by unfold State.config; rw [ha]; rfl
  dsimp only
  rw [this]
  split
  · rename_i hd
    intro j
    rw [State.termMoves_terms, get_setAt]
    split
    · rename_i e; subst e; exact TermRecord.step_sound (h j) hd _ _ _
    · exact h j
  · exact h

theorem State.evaluateTerms_terms {s : State} {cfg} (ha : s.active = some cfg) (h : s.termsUnder cfg) : (s.evaluateTerms).termsUnder cfg := by
  unfold State.evaluateTerms
  have : ∀ (l : List TermId) (s : State), s.active = some cfg → s.termsUnder cfg → (l.foldl State.evaluateTerm s).termsUnder cfg := by
    intro l; induction l with
    | nil => exact fun _ _ => id
    | cons a l ih => exact fun s ha h => ih _ (by unfold State.evaluateTerm; dsimp only; split <;> simpa using ha) (State.evaluateTerm_terms ha h a)
  exact this _ _ ha h

theorem State.resetTerms_get (s : State) (old new : Configuration) (k : TermId) :
    (s.resetTerms old new).terms.get k = if old.terms.get k = new.terms.get k then s.terms.get k else blankTerm (termStartState (new.terms.get k)) := by
  unfold State.resetTerms
  have one : ∀ (s : State) (a k : TermId), (State.resetTerm old new s a).terms.get k = if a = k ∧ old.terms.get k ≠ new.terms.get k then blankTerm (termStartState (new.terms.get k)) else s.terms.get k := by
    intro s a k; unfold State.resetTerm; dsimp only
    split
    · rename_i e
      rw [if_neg]; rintro ⟨rfl, hne⟩; exact hne e
    · rename_i e; rw [State.termMoves_terms, get_setAt]
      by_cases hk : k = a
      · subst hk; simp [e]
      · have : ¬ a = k := fun e => hk e.symm
        simp [hk, this]
  have : ∀ (l : List TermId) (s : State), (l.foldl (State.resetTerm old new) s).terms.get k = if k ∈ l ∧ old.terms.get k ≠ new.terms.get k then blankTerm (termStartState (new.terms.get k)) else s.terms.get k := by
    intro l; induction l with
    | nil => intro s; simp
    | cons a l ih =>
      intro s; rw [List.foldl_cons, ih, one]
      by_cases h1 : k ∈ l <;> by_cases h2 : old.terms.get k = new.terms.get k <;> by_cases h3 : a = k <;> simp [h1, h2, h3]
      all_goals (try (intro h4; exact absurd h4.symm h3))
  rw [this]
  have hm : k ∈ TermId.all := List.mem_finRange k
  by_cases h2 : old.terms.get k = new.terms.get k <;> simp [h2, hm]

end Sys2Proof.Machine
end

