-- ==== Sys2Proof/Laws/Trackers.lean ====
section
/-! SUPPORT. The trackers: each step of a tracker keeps `Tracker.Sound`, and what a commit point makes of each. -/

namespace Sys2Proof.Machine

theorem startHoldTimer_running {m : Moment} {l : Nat} {x} (h : startHoldTimer m l = .running x) : m.run = .run := by
  unfold startHoldTimer at h; split at h
  · cases h
  · split at h
    · assumption
    · cases h
theorem startHoldTimer_paused {m : Moment} {l : Nat} {x} (h : startHoldTimer m l = .paused x) : m.run = .halted := by
  unfold startHoldTimer at h; split at h
  · cases h
  · split at h
    · cases h
    · assumption

theorem Tracker.rebase_sound {t : Tracker} {f : ChannelProfile} {rst raw} (h : t.Sound f rst) (he : t.state ≠ .off)
    (hr : 1 ≤ raw ∧ raw + 2 ≤ 2 ^ f.resolution) {ob rs ht} (ho : ob ≤ 7) (hht : ht = HoldTimer.stopped) :
    ({ t.rebase raw with outOfRangeRun := ob, reseed := rs, holdTimer := ht } : Tracker).Sound f rst := by
  have : f.enabled = true := by
    cases hf : f.enabled
    · exact absurd (h.off.2 hf) he
    · rfl
  constructor <;> simp [Tracker.rebase, this, ChannelState.isPending, ChannelState.isActive, ho, hht]
  · exact hr


theorem Tracker.driftStep_sound {t : Tracker} {f : ChannelProfile} {rst : RunState} {base raw : Nat} (h : t.Sound f rst)
    (hr : 1 ≤ raw ∧ raw + 2 ≤ 2 ^ f.resolution) (hb : t.baseline = some base) : (t.driftStep f ((raw : Int) - base)).Sound f rst := by
  unfold Tracker.driftStep
  have hbr := h.baselineRange base hb
  split
  · rename_i hc
    have hbu := h.bucket.2 hc.2.1
    have hp := h.off
    have h7 := h.outOfRangeRun
    split
    · refine { h with baselineRange := ?_, baselineAbsent := ?_, baselinePresent := ?_, bucket := ?_ }
      · simp [hb]; omega
      · simp [hc.1]
      · simp [hb]
      · simp
    · split
      · refine { h with baselineRange := ?_, baselineAbsent := ?_, baselinePresent := ?_, bucket := ?_ }
        · simp [hb]; omega
        · simp [hc.1]
        · simp [hb]
        · simp
      · refine { h with bucket := ?_ }
        dsimp only; omega
  · exact h

theorem Tracker.driftStep_state (t : Tracker) (f d) : (t.driftStep f d).state = t.state ∧ (t.driftStep f d).reseed = t.reseed := by
  unfold Tracker.driftStep; split
  · split
    · exact ⟨rfl, rfl⟩
    · split <;> exact ⟨rfl, rfl⟩
  · exact ⟨rfl, rfl⟩

theorem Tracker.press_sound {t : Tracker} {f : ChannelProfile} {m : Moment} (h : t.Sound f m.run) (hs : t.state = .idle ∨ t.state = .pressPending) (hrs : t.reseed = false) : (t.press f m).Sound f m.run := by
  have he : f.enabled = true := by
    cases hf : f.enabled
    · have := h.off.2 hf; rw [this] at hs; simp at hs
    · rfl
  have hb : t.baseline.isSome = true := h.baselinePresent (by rcases hs with e | e <;> rw [e] <;> rfl)
  constructor <;> simp [Tracker.press, he, hrs, hb, ChannelState.isPending, ChannelState.isActive]
  · exact h.baselineRange
  · exact h.bucket
  · exact h.outOfRangeRun
  · intro x; exact startHoldTimer_running
  · intro x; exact startHoldTimer_paused

theorem Tracker.stateStep_sound {t : Tracker} {f : ChannelProfile} {m : Moment} (h : t.Sound f m.run) (hrs : t.reseed = false) (n d) :
    (t.stateStep n f m d).1.Sound f m.run := by
  unfold Tracker.stateStep
  dsimp only
  have he : t.state ≠ .off → f.enabled = true := by
    intro hne
    cases hf : f.enabled
    · exact absurd (h.off.2 hf) hne
    · rfl
  split
  · rename_i hs
    have he := he (by rw [hs]; simp)
    have hst := h.timerStopped (by rw [hs]; rfl)
    split
    · split
      · exact Tracker.press_sound h (.inl hs) hrs
      · have hb : t.baseline.isSome = true := h.baselinePresent (by rw [hs]; rfl)
        refine { h with off := ?_, baselineAbsent := ?_, baselinePresent := ?_, debounce := ?_, debouncePositive := ?_, reseed := ?_, activeSince := ?_, timerStopped := ?_ } <;> simp [he, hrs, hb, hst, ChannelState.isPending, ChannelState.isActive]
    · exact h
  · rename_i hs
    have he := he (by rw [hs]; simp)
    have hst := h.timerStopped (by rw [hs]; rfl)
    have hb : t.baseline.isSome = true := h.baselinePresent (by rw [hs]; rfl)
    split
    · split
      · exact Tracker.press_sound h (.inr hs) hrs
      · refine { h with baselinePresent := ?_, debounce := ?_, debouncePositive := ?_ } <;> simp [hs, hb, ChannelState.isPending]
    · refine { h with off := ?_, baselineAbsent := ?_, baselinePresent := ?_, debounce := ?_, debouncePositive := ?_, reseed := ?_, activeSince := ?_, timerStopped := ?_ } <;> simp [he, hrs, hb, hst, ChannelState.isPending, ChannelState.isActive]
  · rename_i hs
    have he := he (by rw [hs]; simp)
    have hb : t.baseline.isSome = true := h.baselinePresent (by rw [hs]; rfl)
    have hact := h.activeSince (by rw [hs]; rfl)
    have hd : t.debounce = none := by have := h.debounce; rw [hs] at this; simpa [ChannelState.isPending] using this
    split
    · split
      · refine { h with off := ?_, baselineAbsent := ?_, baselinePresent := ?_, debounce := ?_, debouncePositive := ?_, reseed := ?_, activeSince := ?_, timerStopped := ?_, timerRunning := ?_, timerPaused := ?_ } <;> simp [Tracker.release, he, hrs, hb, ChannelState.isPending, ChannelState.isActive]
      · refine { h with off := ?_, baselineAbsent := ?_, baselinePresent := ?_, debounce := ?_, debouncePositive := ?_, reseed := ?_, activeSince := ?_, timerStopped := ?_ } <;> simp [he, hrs, hb, hact, ChannelState.isPending, ChannelState.isActive]
    · exact h
  · rename_i hs
    have he := he (by rw [hs]; simp)
    have hb : t.baseline.isSome = true := h.baselinePresent (by rw [hs]; rfl)
    have hact := h.activeSince (by rw [hs]; rfl)
    split
    · split
      · refine { h with off := ?_, baselineAbsent := ?_, baselinePresent := ?_, debounce := ?_, debouncePositive := ?_, reseed := ?_, activeSince := ?_, timerStopped := ?_, timerRunning := ?_, timerPaused := ?_ } <;> simp [Tracker.release, he, hrs, hb, ChannelState.isPending, ChannelState.isActive]
      · refine { h with debounce := ?_, debouncePositive := ?_ } <;> simp [hs, ChannelState.isPending]
    · refine { h with off := ?_, baselineAbsent := ?_, baselinePresent := ?_, debounce := ?_, debouncePositive := ?_, reseed := ?_, activeSince := ?_, timerStopped := ?_ } <;> simp [he, hrs, hb, hact, ChannelState.isPending, ChannelState.isActive]
  · exact h
  · exact h
  · exact h

theorem Tracker.judge_sound {t : Tracker} {f : ChannelProfile} {m : Moment} {raw base : Nat} (h : t.Sound f m.run)
    (hj : t.state.isJudged = true) (hrs : t.reseed = false) (hr : 1 ≤ raw ∧ raw + 2 ≤ 2 ^ f.resolution) (hb : t.baseline = some base) (n) :
    (t.judge n f m raw base).1.Sound f m.run := by
  have hne : t.state ≠ .off := by intro e; rw [e] at hj; cases hj
  have key : ∀ lr, ((({ t with lastRaw := some raw, lowRun := lr } : Tracker).driftStep f ((raw : Int) - base)).stateStep n f m ((raw : Int) - base)).1.Sound f m.run := by
    intro lr
    have h' : ({ t with lastRaw := some raw, lowRun := lr } : Tracker).Sound f m.run := { h with }
    exact Tracker.stateStep_sound (Tracker.driftStep_sound h' hr hb) (by rw [(Tracker.driftStep_state _ _ _).2]; exact hrs) n _
  unfold Tracker.judge
  dsimp only
  split
  · split
    · unfold Tracker.recalibrate
      split
      · exact Tracker.rebase_sound h hne hr h.outOfRangeRun rfl
      · rename_i hna
        exact Tracker.rebase_sound (ht := t.holdTimer) h hne hr h.outOfRangeRun (h.timerStopped (by simpa using hna))
    · exact key _
  · exact key _

theorem Tracker.takeInRange_sound {t : Tracker} {f : ChannelProfile} {m : Moment} {raw : Nat} (h : t.Sound f m.run)
    (hr : 1 ≤ raw ∧ raw + 2 ≤ 2 ^ f.resolution) (n) : (t.takeInRange n f m raw).1.Sound f m.run := by
  unfold Tracker.takeInRange
  dsimp only
  have h0 : ({ t with outOfRangeRun := 0 } : Tracker).Sound f m.run := { h with outOfRangeRun := Nat.zero_le _ }
  have hst : t.state.isActive = false → t.holdTimer = .stopped := h.timerStopped
  have j : ∀ (_ : t.state.isJudged = true), (if t.reseed = true then
        ({ state := ({ t with outOfRangeRun := 0 }.rebase raw).state, baseline := ({ t with outOfRangeRun := 0 }.rebase raw).baseline, lastRaw := ({ t with outOfRangeRun := 0 }.rebase raw).lastRaw, bucket := ({ t with outOfRangeRun := 0 }.rebase raw).bucket, lowRun := ({ t with outOfRangeRun := 0 }.rebase raw).lowRun, debounce := ({ t with outOfRangeRun := 0 }.rebase raw).debounce, outOfRangeRun := ({ t with outOfRangeRun := 0 }.rebase raw).outOfRangeRun, reseed := false, activeSince := ({ t with outOfRangeRun := 0 }.rebase raw).activeSince, holdTimer := ({ t with outOfRangeRun := 0 }.rebase raw).holdTimer }, none)
      else match t.baseline with
        | none => (({ t with outOfRangeRun := 0 } : Tracker).rebase raw, none)
        | some base => ({ t with outOfRangeRun := 0 } : Tracker).judge n f m raw base : Tracker × Option Report).1.Sound f m.run := by
    intro hj
    have hne : t.state ≠ .off := by intro e; rw [e] at hj; cases hj
    split
    · rename_i hrs
      have : t.state.isActive = false := by rcases h.reseed hrs with e | e <;> rw [e] <;> rfl
      exact Tracker.rebase_sound h0 hne hr (Nat.zero_le _) (hst this)
    · rename_i hrs
      have hb := h.baselinePresent hj
      split
      · rename_i e; rw [e] at hb; cases hb
      · rename_i base e
        exact Tracker.judge_sound h0 hj (by simpa using hrs) hr e n
  split
  · exact h
  · rename_i hs; exact Tracker.rebase_sound h0 (by simp [hs]) hr (Nat.zero_le _) (hst (by rw [hs]; rfl))
  · rename_i hs; exact Tracker.rebase_sound h0 (by simp [hs]) hr (Nat.zero_le _) (hst (by rw [hs]; rfl))
  · rename_i hs; exact j (by rw [hs]; rfl)
  · rename_i hs; exact j (by rw [hs]; rfl)
  · rename_i hs; exact j (by rw [hs]; rfl)
  · rename_i hs; exact j (by rw [hs]; rfl)

theorem Tracker.takeOutOfRange_sound {t : Tracker} {f : ChannelProfile} {rst} (h : t.Sound f rst) (n) : (t.takeOutOfRange n).1.Sound f rst := by
  have he : t.state ≠ .off → f.enabled = true := by
    intro hne
    cases hf : f.enabled
    · exact absurd (h.off.2 hf) hne
    · rfl
  have j : ∀ (_ : t.state ≠ .off), (if 8 ≤ t.outOfRangeRun + 1 then (t.enterFault, some (Report.chFault n)) else ({ t with outOfRangeRun := t.outOfRangeRun + 1 }, none)).1.Sound f rst := by
    intro hne
    split
    · refine { h with off := ?_, baselineAbsent := ?_, baselinePresent := ?_, debounce := ?_, debouncePositive := ?_, reseed := ?_, activeSince := ?_, timerStopped := ?_, timerRunning := ?_, timerPaused := ?_, outOfRangeRun := ?_ } <;> simp [Tracker.enterFault, he hne, ChannelState.isPending, ChannelState.isActive, ChannelState.isJudged]
    · refine { h with outOfRangeRun := ?_ }
      simp; omega
  unfold Tracker.takeOutOfRange
  split
  · exact h
  · exact h
  all_goals (rename_i hs; exact j (by rw [hs]; simp))

theorem Tracker.expireHold_sound {t : Tracker} {f : ChannelProfile} {rst expiry} (h : t.Sound f rst) (ht : t.holdTimer = .running expiry) : t.expireHold.Sound f rst := by
  have ha : t.state.isActive = true := by
    by_contra hne
    have := h.timerStopped (by simpa using hne)
    rw [ht] at this; cases this
  have hne : t.state ≠ .off := by intro e; rw [e] at ha; cases ha
  have he : f.enabled = true := by
    cases hf : f.enabled
    · exact absurd (h.off.2 hf) hne
    · rfl
  have hb : t.baseline.isSome = true := h.baselinePresent (by cases hs : t.state <;> rw [hs] at ha <;> first | rfl | cases ha)
  refine { h with off := ?_, baselineAbsent := ?_, baselinePresent := ?_, debounce := ?_, debouncePositive := ?_, reseed := ?_, activeSince := ?_, timerStopped := ?_, timerRunning := ?_, timerPaused := ?_ } <;> simp [Tracker.expireHold, he, hb, ChannelState.isPending, ChannelState.isActive]

theorem Tracker.map_sound {t : Tracker} {f : ChannelProfile} {rst rst2 : RunState} {g : HoldTimer → HoldTimer} (h : t.Sound f rst)
    (hs : g .stopped = .stopped) (hr : ∀ x, g t.holdTimer = .running x → rst2 = .run) (hp : ∀ x, g t.holdTimer = .paused x → rst2 = .halted) :
    ({ t with holdTimer := g t.holdTimer } : Tracker).Sound f rst2 := by
  refine ⟨h.1, h.2, h.3, h.4, h.5, h.6, h.7, h.8, h.9, h.10, ?_, hr, hp⟩
  intro hi; have := h.timerStopped hi; simp [this, hs]

theorem blankTracker_sound (f : ChannelProfile) (rst) : (blankTracker (startState f)).Sound f rst := by
  unfold startState
  cases hd : f.enabled <;> constructor <;> simp [blankTracker, hd, ChannelState.isPending, ChannelState.isActive, ChannelState.isJudged]

theorem Tracker.rethreshold_sound {t : Tracker} {f g : ChannelProfile} {m : Moment} (h : t.Sound f m.run) (hs : sameMeasurement f g = true) : (t.rethreshold m f g).Sound g m.run := by
  unfold sameMeasurement at hs
  simp at hs
  obtain ⟨⟨⟨⟨h1, h2⟩, h3⟩, h4⟩, h5⟩ := hs
  refine ⟨?_, ?_, h.3, h.4, ?_, h.6, h.7, h.8, h.9, h.10, ?_, ?_, ?_⟩
  · rw [← h1]; exact h.1
  · rw [← h4]; exact h.2
  · by_cases e : f.driftLimit = g.driftLimit
    · simp only [Tracker.rethreshold, e, if_true]; rw [← e]; exact h.bucket
    · refine ⟨fun _ => by simp [Tracker.rethreshold, e], fun hpos => ?_⟩
      have : (t.rethreshold m f g).bucket = 0 := by simp [Tracker.rethreshold, e]
      rw [this]; omega
  · intro hi
    have := h.timerStopped hi
    have hi' : t.state.isActive = false := hi
    simp [Tracker.rethreshold, this, hi']
  · intro x hx
    simp only [Tracker.rethreshold] at hx
    split at hx
    · exact h.timerRunning x hx
    · split at hx
      · exact startHoldTimer_running hx
      · cases hx
  · intro x hx
    simp only [Tracker.rethreshold] at hx
    split at hx
    · exact h.timerPaused x hx
    · split at hx
      · exact startHoldTimer_paused hx
      · cases hx

theorem State.trackerMoves_trackers (s : State) (k x) : (s.trackerMoves k x).trackers = setAt s.trackers k x.1 := by
  unfold State.trackerMoves; split
  · rfl
  · simp; rfl

theorem State.realignChannels_get (s : State) (old new : Configuration) (k : ChannelId) :
    (s.realignChannels old new).trackers.get k =
      if old.channels.get k = new.channels.get k then s.trackers.get k
      else if sameMeasurement (old.channels.get k) (new.channels.get k) then (s.trackers.get k).rethreshold s.moment (old.channels.get k) (new.channels.get k)
      else blankTracker (startState (new.channels.get k)) := by
  unfold State.realignChannels
  have mom : ∀ (s : State) a, (State.realignChannel old new s a).moment = s.moment := by
    intro s a; unfold State.realignChannel State.moment; dsimp only; split
    · rfl
    · split <;> simp
  have one : ∀ (s : State) (a k : ChannelId), (State.realignChannel old new s a).trackers.get k = if a = k then (if old.channels.get k = new.channels.get k then s.trackers.get k
      else if sameMeasurement (old.channels.get k) (new.channels.get k) then (s.trackers.get k).rethreshold s.moment (old.channels.get k) (new.channels.get k)
      else blankTracker (startState (new.channels.get k))) else s.trackers.get k := by
    intro s a k
    by_cases hk : a = k
    · subst hk
      unfold State.realignChannel; dsimp only
      simp only [if_true]
      split
      · rfl
      · split
        · simp [State.setTracker]
        · rw [State.trackerMoves_trackers]; simp [Tracker.reinitialise]
    · have hk2 : ¬ k = a := fun e => hk e.symm
      simp only [hk, if_false]
      unfold State.realignChannel; dsimp only
      split
      · rfl
      · split
        · simp [State.setTracker, get_setAt, hk2]
        · rw [State.trackerMoves_trackers]; simp [get_setAt, hk2]
  have : ∀ (l : List ChannelId) (s : State), l.Nodup → (l.foldl (State.realignChannel old new) s).trackers.get k = if k ∈ l then (if old.channels.get k = new.channels.get k then s.trackers.get k
      else if sameMeasurement (old.channels.get k) (new.channels.get k) then (s.trackers.get k).rethreshold s.moment (old.channels.get k) (new.channels.get k)
      else blankTracker (startState (new.channels.get k))) else s.trackers.get k := by
    intro l; induction l with
    | nil => intro s _; simp
    | cons a l ih =>
      intro s hl
      rw [List.foldl_cons, ih _ (List.nodup_cons.1 hl).2, mom, one]
      by_cases hk : a = k
      · subst hk; have := (List.nodup_cons.1 hl).1; simp [this]
      · have hk2 : ¬ k = a := fun e => hk e.symm
        simp [hk, hk2]
  rw [this ChannelId.all s (List.nodup_finRange 24)]
  have hm : k ∈ ChannelId.all := List.mem_finRange k
  simp [hm]

end Sys2Proof.Machine
end

