-- ==== Sys2Proof/Tests/Slice0.lean ====
section
/-! SUPPORT. The model's own tests, with expected results from the spec's examples and tables, and a witness for the hypotheses of
each statement. -/

namespace Sys2Proof.Tests

open Sys2Proof Sys2Proof.Machine

/-! ### Helpers -/

/-- The state a command leaves. -/
def after (c : Instr) (s : State) : State :=
  match exec c s with
  | .next t => t
  | .fault _ | .refused _ => s

/-- The status and payload that a port holds. -/
def held (p : Port) (s : State) : Option (StatusCode × List Byte) :=
  (s.ports.get p).held.map fun r => (r.status, r.payload)

/-- What a port is answered. -/
def answer (c : Instr) (p : Port) (s : State) : Option (StatusCode × List Byte) := held p (after c s)

/-- A session that subscribes to everything, in LEVEL mode with threshold 1. -/
def level : Session :=
  { channelMask := 0xFFFFFF, termMask := 0xFFFF, transitions := true, maintenance := true, mode := .level, threshold := 1,
    rearm := none }

/-- The session of 05 section 5.7: PULSE mode, threshold 3, channels 0..7 under TRANSITIONS. -/
def pulse : Session :=
  { channelMask := 0x0000FF, termMask := 0, transitions := true, maintenance := false, mode := .pulse, threshold := 3,
    rearm := some .armed }

/-- A queue of entries with consecutive numbers, the first of them READ. -/
def entries (first count read : Nat) : List Entry :=
  (List.range count).map fun i =>
    { sequence := BitVec.ofNat 16 (first + i), report := .chPress 2, resync := false, stamp := 0, read := decide (i < read) }

/-- What the delivery unit holds for a port with an open session. -/
def port (se : Session) (queue : List Entry) (next : BitVec 16) (lapsed : Lapsed) : Delivery :=
  { session := some se, queue := queue, lapsed := lapsed, nextSeq := next, appended := decide (queue ≠ []),
    line :=
      { driven := true, active := decide (se.mode = .level ∧ queue.any fun e => !e.read), polarity := .activeLow, pulseEnd := none
        overtaken := none }
    reopened := none }

/-- The reset state with the given delivery record at one port. -/
def withPort (p : Port) (d : Delivery) : State := { State.reset with delivery := State.reset.delivery.set p d }

/-- The reset state with sessions open at ports A and B. -/
def opened : State :=
  { State.reset with
    delivery := (State.reset.delivery.set .a (port level [] 1 .empty)).set .b (port level [] 1 .empty) }

/-- The factory configuration with a sweep period of 27 ms. -/
def slower : Configuration := { factoryConfiguration with hub := { factoryHub with sweepPeriodMs := 27 } }

/-- Port A holds the lease, with a staging configuration. -/
def leased (staging : Configuration) : State :=
  { opened with lease := .held .a staging (decide (staging ≠ factoryConfiguration)) 8000000 }

/-- A commit of port A waits. -/
def committing : State := { opened with lease := .committing (some .a) slower true }

/-- A tracker of a channel that is judged against a baseline. -/
def tracker (state : ChannelState) (baseline : Nat) : Tracker :=
  { blankTracker state with baseline := some baseline, lastRaw := some baseline }

/-- The opened hub with one tracker replaced. -/
def withTracker (n : ChannelId) (t : Tracker) : State := { opened with trackers := setAt opened.trackers n t }

/-- A measurement in progress. -/
def claim (kind : ClaimKind) (n : ChannelId) (retry : Retry) (disturbed : Bool) : Measurement :=
  { kind := kind, channel := n, retry := retry, disturbed := disturbed, endTime := 4256 }

/-- Sweep 1 in progress at a channel, whose measurement runs. -/
def sweeping (n : ChannelId) : State :=
  { opened with
    unit := some (claim (.sweep 1) n .first false)
    sequencer := { opened.sequencer with number := 1, position := some n } }

/-- A store of port A in a phase, into slot 0 with generation 1, whose cells are as given. -/
def storing (phase : StorePhase) (cells : Slot) : State :=
  { leased factoryConfiguration with
    images :=
      { slot0 := cells, slot1 := .erased, lastResult := none, cuts := 0
        store := some
          { phase := phase, snapshot := factoryConfiguration, port := .a, target := .slot0, generation := 1, endTime := 120000 } } }

/-- The cells of slot 0 after programming. -/
def programmed : Slot := { generation := 1, configuration := some factoryConfiguration, check := none }

/-- The factory profile as SET_CHANNEL carries it (09 R157). -/
def factoryParams : ChannelParams := ⟨0x01, 20, 16, 12, 0x00, 100, 10, 40, 40, 64, 20, 3, 3, 0⟩

/-! ### Well-formedness: a term that each check refuses, and one at its boundary that it lets pass -/

theorem test_wf_scanlist_too_long : (Instr.setScanlist .a 0 (List.replicate 37 0)).wellFormed = false := by decide
theorem test_wf_scanlist_longest : (Instr.setScanlist .a 0 (List.replicate 36 0)).wellFormed = true := by decide
theorem test_wf_term_too_long : (Instr.setTerm .a 0 0 ⟨1, 0, 0, 0, List.replicate 32 0⟩).wellFormed = false := by decide
theorem test_wf_refusal_too_long : (Instr.transportRefusal .a (List.replicate 42 0) true).wellFormed = false := by decide
theorem test_wf_refusal_of_nothing : (Instr.transportRefusal .a [] false).wellFormed = false := by decide
theorem test_wf_refusal_of_a_request :
    (Instr.transportRefusal .b [0x03, 0x04, 0x2A, 0xCF] false).wellFormed = false := by decide
theorem test_wf_refusal_of_a_damaged_request :
    (Instr.transportRefusal .b [0x03, 0x04, 0x2A, 0xCE] false).wellFormed = true := by decide
theorem test_wf_read_that_writes : (Instr.transactionStart .a 0x3A .read [0x03]).wellFormed = false := by decide

/-! ### Messages, written out from the spec -/

/-- 10 section 10.3: the example of port B. -/
theorem test_message_readState : decodeMessage .b [0x03, 0x04, 0x2A, 0xCF] false = .ok (.readState .b 0x2A) := by decide
theorem test_message_damaged : decodeMessage .b [0x03, 0x04, 0x2A, 0xCE] false = .error .check := by decide
theorem test_message_short : decodeMessage .b [0x03, 0x04] false = .error .frame := by decide
/-- 10 section 10.6, with the check byte that R173 asks for: the example's C5h does not bring the sum to 0 (log 18). -/
theorem test_message_readEvents :
    decodeMessage .a [0x05, 0x06, 0x2A, 0x08, 0x00, 0xC3] false = .ok (.readEvents .a 0x2A 8 0) ∧
    decodeMessage .a [0x05, 0x06, 0x2A, 0x08, 0x00, 0xC5] false = .error .check := by decide
/-- 11 R188. -/
theorem test_message_identify : decodeMessage .a [0x03, 0x42, 0x01, 0xBA] false = .ok (.identify .a 0x01) := by decide
theorem test_message_readStatus : decodeMessage .a [0x03, 0x40, 0x10, 0xAD] false = .ok (.readStatus .a 0x10) := by decide
/-- 10 section 10.11, the SET_TERM example: eight parameter bytes. -/
theorem test_message_setTerm :
    decodeParams .c 0x24 0x05 [0x00, 0x01, 0x01, 0x01, 0x02, 0x02, 0x04, 0x05] =
      some (.setTerm .c 0x05 0 ⟨1, 1, 1, 2, [4, 5]⟩) := by decide
theorem test_message_setTerm_count :
    decodeParams .c 0x24 0x05 [0x00, 0x01, 0x01, 0x01, 0x02, 0x03, 0x04, 0x05] = none := by decide
/-- 11 R188: the response to IDENTIFY with tag 01h. -/
theorem test_response_identify :
    (Response.mk .ok 0x01 [0x5A, 0x03, 0x24, 0x01]).bytes = [0x07, 0x00, 0x01, 0x5A, 0x03, 0x24, 0x01, 0x76] := by decide
/-- 10 R177. -/
theorem test_response_none : noResponse.bytes = [0x03, 0x24, 0x00, 0xD9] := by decide
/-- No row of the table gives bits. -/
theorem test_no_word_spells_a_command : decodeTableWord 8 0x42 = none ∧ State.reset.withFetchWord 8 0x42 = State.reset :=
  ⟨rfl, rfl⟩

/-! ### Reset and time -/

/-- 01 section 1.9: with the factory configuration the first tick comes 20 ms after the load. -/
theorem test_reset_first_tick : State.reset.sequencer.nextTick = some (milliseconds 20) := by decide
/-- An empty queue lets a quarter of a microsecond pass (log 1). -/
theorem test_idle_step : step State.reset = .next { State.reset with now := 1 } := rfl

/-! ### Sessions (05) -/

/-- 05 section 5.7, first row. -/
theorem test_open_pulse :
    ((after (.openSession .c 1 0x0000FF 0 1 1 3) State.reset).delivery.get .c).session = some pulse := by decide
/-- 05 section 5.7: the third append spends the flag on a pulse of 10 µs, and the fourth makes none. -/
theorem test_open_pulse_line :
    let s := (withPort .c (port pulse (entries 1 2 0) 3 .empty)).offerAll (.chRelease 2 .idle .normal)
    (s.delivery.get .c).line.pulseEnd = some 40 ∧ (s.delivery.get .c).line.level = some false ∧
    (s.delivery.get .c).session.bind (·.rearm) = some .spent := by decide
/-- 05 R88, its last sentence: an append after the re-open, at the same moment, leaves the line inactive, in LEVEL mode with
threshold 1 and in PULSE mode with threshold 1 without a pulse; a moment later the line is active. -/
theorem test_reopen_line :
    let line (mode : Byte) (later : Nat) : AttentionLine :=
      let s := after (.openSession .a 2 0xFFFFFF 0xFFFF 3 mode 1) opened
      (({ s with now := s.now + later } : State).offerTo .a (.chPress 2)).delivery.get .a |>.line
    (line 0 0).active = false ∧ (line 1 0).active = false ∧ (line 1 0).pulseEnd = none ∧
    (line 0 1).active = true ∧ (line 1 1).pulseEnd = some 41 := by decide
/-- 05 R76: CLOSE of the holder frees the lease. -/
theorem test_close : (after (.closeSession .a 1) (leased slower)).lease = .free := by decide
/-- The example under 05 R80: channel 6 leaves the lapsed set, channel 3 and EPOCH stay. -/
theorem test_subscribe_prunes :
    ((after (.subscribe .b 1 0x00003F 0 3) (withPort .b (port level (entries 1 32 0) 33
      { Lapsed.empty with epoch := true, channels := 0x000048 }))).delivery.get .b).lapsed =
      { Lapsed.empty with epoch := true, channels := 0x000008 } := by decide
/-- 11 section 11.4, time 5: channels 0..7 SEEDING, the others and the terms OFF, epoch 0, RUN, sweep 0, last sequence 0. -/
theorem test_readState :
    answer (.readState .a 5) .a opened = some (.ok, List.replicate 8 0x01 ++ List.replicate 40 0x00) := by decide
/-- The example under 02 R22: last raw 1803, baseline 1801, d 2, bucket 0. -/
theorem test_readTracker :
    answer (.readTracker .a 1 5) .a (withTracker 5 { tracker .idle 1801 with lastRaw := some 1803 }) =
      some (.ok, [0x05, 0x02, 0x07, 0x07, 0x09, 0x07, 0x0B, 0, 0, 0, 2, 0, 0, 0, 0, 0, 0, 0, 0, 0, 0, 0, 0, 0]) := by decide
/-- 05 R87: a pulse lasts 10 µs. -/
theorem test_pulse_end :
    let d := port pulse (entries 1 3 0) 4 .empty
    let s := after (.pulseEnd .c) (withPort .c { d with line := { d.line with active := true, pulseEnd := some 40 } })
    s.now = 40 ∧ (s.delivery.get .c).line.level = some true := by decide

/-! ### Event queues (06) -/

/-- The example under 06 R98: entries 40 to 51, 40 to 43 READ; count 5 in mode NEXT returns 44 to 48. -/
theorem test_readEvents_next :
    (answer (.readEvents .a 1 5 0) .a (withPort .a (port level (entries 40 12 4) 52 .empty))).map
      (fun r => (r.1, r.2.take 3, r.2.length)) = some (.ok, [0x03, 0x00, 44], 41) := by decide
/-- The example under 06 R99: count 8 in mode FROM_OLDEST returns 40 to 47, and 44 to 47 become READ. -/
theorem test_readEvents_oldest :
    (answer (.readEvents .a 1 8 1) .a (withPort .a (port level (entries 40 12 4) 52 .empty))).map
      (fun r => (r.1, r.2.take 3, r.2.length)) = some (.ok, [0x04, 0x00, 40], 65) := by decide
/-- 05 R88: a pulse is due only if the append was taken after the read; a pulse begun 5 µs earlier stays in progress. -/
theorem test_append_then_read :
    let d := port pulse (entries 1 2 0) 3 .empty
    let older := { d with line := { d.line with active := true, pulseEnd := some 20 } }
    ((d.append 0 0 false (.chPress 2)).readOut 0 .next 1).line = d.line ∧
    ((d.append 0 0 false (.chPress 2)).readOut 1 .next 1).line.pulseEnd = some 40 ∧
    ((d.readOut 0 .next 0).append 0 0 false (.chPress 2)).line.pulseEnd = some 40 ∧
    ((older.append 0 0 false (.chPress 2)).readOut 0 .next 1).line.pulseEnd = some 20 := by decide
set_option maxRecDepth 4000 in
/-- 11 section 11.6, step 3: removed 3, appended 3, lapsed yes. -/
theorem test_ackEvents_drains :
    answer (.ackEvents .c 1 303) .c (withPort .c (port level (entries 301 32 8) 333
      { Lapsed.empty with epoch := true, store := some .ok, channels := 0x004840 })) = some (.ok, [3, 3, 1]) := by decide
/-- 06 R90: the number after 65535 is 1. -/
theorem test_sequence_wraps : nextSequence 65535 = 1 := by decide
/-- The example under 06 R93: a lapsed LEASE slot takes the later outcome, and the counter goes up. -/
theorem test_fold_lease :
    let s := (withPort .c (port level (entries 1 32 0) 33 { Lapsed.empty with lease := some .expired })).offerTo .c (.lease .committed)
    (s.delivery.get .c).lapsed.lease = some .committed ∧ s.status.counters.lapses.c = 1 := by decide
/-- 11 section 11.6: drained entries of EPOCH, STORE and a channel carry the kind bytes B0h, B2h, A0h. -/
theorem test_resync_kinds :
    ([Report.epoch 3, .store .ok, .resyncChannel 6 .idle].map fun r => (Entry.mk 333 r true 0 false).bytes.drop 2) =
      [[0xB0, 0xFF, 0x00, 0x03, 0, 0], [0xB2, 0xFF, 0x00, 0x01, 0, 0], [0xA0, 0x06, 0x02, 0x00, 0, 0]] := by decide

/-! ### Fresh samples (07) and the arbiter (01) -/

/-- 07 section 7.11, time 0: the claim on channel 3 of factory length ends at 1.064 ms. -/
theorem test_sample_begins :
    (after (.sample .b 1 3 1) opened).unit = some (claim .fresh 3 .first false) ∧
    answer (.sample .b 1 3 1) .b opened = some (.deferred, [3, 1]) := by decide
/-- 01 section 1.9, time 1.500: a SAMPLE during the sweep's measurement waits. -/
theorem test_sample_waits :
    (after (.sample .b 1 3 7) (sweeping 1)).fresh = [⟨.b, 7, 3, .waiting⟩] := by decide
/-- The example under 07 R119: raw 2138, baseline 2000, difference 138, ACTIVE. -/
theorem test_fetch :
    answer (.fetch .a 1 9) .a { opened with fresh := [⟨.a, 9, 4, .ready (.ok 2138 (some 2000) .active) 400000⟩] } =
      some (.ok, [4, 0x01, 0x0F, 0x08, 0x5A, 0x07, 0xD0, 0, 0, 0, 138, 0x04]) := by decide
/-- 07 section 7.11, time 2.520: CANCEL of a MEASURING entry. -/
theorem test_cancel :
    answer (.cancel .b 1 5) .b { opened with fresh := [⟨.b, 5, 9, .measuring⟩] } = some (.ok, [0x02]) := by decide
/-- 07 section 7.11, time 103.192: the discard. -/
theorem test_discard :
    let s := after (.discardTimerExpiry .b 2) { opened with fresh := [⟨.b, 2, 9, .ready .disturbed 412768⟩] }
    s.fresh = [] ∧ s.status.counters.freshDiscards = 1 ∧ s.now = 412768 := by decide
/-- 01 section 1.9, time 2.128: channel 1 completes, and the waiting entry's channel 3 is measured before the sweep's channel 2. -/
theorem test_measurement_fresh_first :
    let s := after (.measurementComplete 2000) { sweeping 1 with fresh := [⟨.b, 7, 3, .waiting⟩] }
    s.unit.map (fun m => (m.kind, m.channel)) = some (.fresh, 3) ∧ s.sequencer.position = some 2 ∧
    (s.trackers.get 1).baseline = some 2000 := by decide
/-- 01 section 1.9, time 10.640: channel 7 completes, channels 8..23 are passed over and the sweep closes. -/
theorem test_measurement_closes :
    let s := after (.measurementComplete 2000) (sweeping 7)
    s.unit = none ∧ s.sequencer.position = none := by decide
/-- 01 section 1.9: a tick begins the next sweep at channel 0; in a sweep it is an overrun. -/
theorem test_tick :
    let s := after .sweepTick opened
    s.sequencer.number = 1 ∧ s.unit.map (fun m => (m.kind, m.channel, m.endTime)) = some (.sweep 1, 0, 84256) ∧
    s.sequencer.nextTick = some 160000 := by decide
theorem test_tick_overrun :
    let s := after .sweepTick (sweeping 3)
    s.sequencer.number = 1 ∧ s.status.counters.sweepOverruns = 1 := by decide

/-! ### The lease and staging (08) -/

/-- The example under 08 R132: GRANTED, kept no, HELD, 2000 ms, epoch 12. -/
theorem test_takeLease :
    answer (.takeLease .b 1 0) .b { opened with epoch := 12 } = some (.granted, [0x01, 0x00, 0x01, 20, 12]) := by decide
theorem test_releaseLease : (after (.releaseLease .a 1) (leased slower)).lease = .free := by decide
theorem test_leaseTimer :
    let s := after .leaseTimerExpiry (leased slower)
    s.lease = .free ∧ s.now = 8000000 ∧ (s.delivery.get .a).queue.map (·.report) = [.lease .expired] := by decide
/-- 08 R141: the factory profile with T 0 is refused at offset 6; whole, it leaves staging clean. -/
theorem test_setChannel :
    answer (.setChannel .a 1 9 { factoryParams with enabled := 1 }) .a (leased factoryConfiguration) = some (.ok, [0x01]) ∧
    answer (.setChannel .a 1 3 factoryParams) .a (leased factoryConfiguration) = some (.ok, [0x00]) ∧
    answer (.setChannel .a 1 3 { factoryParams with touch := 0 }) .a (leased factoryConfiguration) = some (.badValue, [6]) := by
  decide
/-- 10 section 10.11, the SET_TERM example: function 04h is refused at offset 2; without the lease, NOT_HOLDER. -/
theorem test_setTerm :
    answer (.setTerm .a 1 0 ⟨1, 4, 1, 2, [4, 5]⟩) .a (leased factoryConfiguration) = some (.badValue, [2]) ∧
    answer (.setTerm .b 1 0 ⟨1, 1, 1, 2, [4, 5]⟩) .b (leased factoryConfiguration) = some (.notHolder, []) := by decide
theorem test_setScanlist :
    answer (.setScanlist .a 1 [0, 24]) .a (leased factoryConfiguration) = some (.badValue, [2]) ∧
    answer (.setScanlist .a 1 [0, 0]) .a (leased factoryConfiguration) = some (.ok, [0x01]) := by decide
theorem test_setHub :
    answer (.setHub .a 1 4 0 20) .a (leased factoryConfiguration) = some (.badValue, [0]) ∧
    answer (.setHub .a 1 27 0 20) .a (leased factoryConfiguration) = some (.ok, [0x01]) := by decide
theorem test_setPort :
    answer (.setPort .a 1 0 3 1) .a (leased factoryConfiguration) = some (.ok, [0x01]) := by decide
theorem test_loadStaging :
    answer (.loadStaging .a 1 2) .a (leased slower) = some (.ok, [0x02, 0x00, 0xFF, 0, 0, 0, 0]) ∧
    answer (.loadStaging .a 1 1) .a (leased slower) = some (.noImage, []) := by decide
theorem test_readStaging :
    answer (.readStaging .a 1 0x41) .a (leased slower) = some (.ok, [0x41, 0x01, 0, 27, 0, 20]) := by decide
theorem test_readConfig :
    answer (.readConfig .b 1 0x41) .b (leased slower) = some (.ok, [0x41, 0x00, 0, 20, 0, 20]) := by decide
/-- The example under 08 R146: T 60, H 30, N 40 at resolution 12 is INVALID, CHANNEL 4, CH_NOISE_BAND. -/
theorem test_commit_invalid :
    answer (.commit .a 1) .a (leased { factoryConfiguration with
      channels := setAt factoryConfiguration.channels 4 { factoryProfile 4 with touch := 60, hysteresis := 30, noiseBand := 40 } }) =
      some (.invalid, [0x04, 0x02]) := by decide
/-- 11 section 11.5: ACCEPTED with the epoch to come; at the commit point the notices are offered and the lease is HELD. -/
theorem test_commit :
    answer (.commit .a 1) .a (leased slower) = some (.accepted, [1]) := by decide
theorem test_commitPoint :
    let s := after .commitPoint committing
    s.epoch = 1 ∧ s.active = some slower ∧ s.sequencer.nextTick = some (milliseconds 27) ∧
    (s.delivery.get .a).queue.map (·.report) = [.epoch 1, .lease .committed] ∧
    (s.delivery.get .b).queue.map (·.report) = [.epoch 1] := by decide
/-- 03 section 3.9: a hold limit of 3 s, HALT at 1200 ms leaves 1800 ms. -/
theorem test_halt :
    ((after (.halt .a 1) { leased factoryConfiguration with
        now := 4800000
        trackers := setAt opened.trackers 1 { tracker .active 2000 with activeSince := some 1, holdTimer := .running 12000000 } }
      ).trackers.get 1).holdTimer = .paused 7200000 := by decide
/-- 03 section 3.9: RESUME at 10000 ms makes it expire at 11800 ms. -/
theorem test_resume :
    ((after (.resume .a 1) { leased factoryConfiguration with
        now := 40000000
        sequencer := { opened.sequencer with run := .halted }
        trackers := setAt opened.trackers 1 { tracker .active 2000 with activeSince := some 1, holdTimer := .paused 7200000 } }
      ).trackers.get 1).holdTimer = .running 47200000 := by decide
/-- 08 R154: a delay of 5 ms. -/
theorem test_restart : (after (.restart .a 1) (leased slower)).restartDelay = some (milliseconds 5) := by decide

/-! ### Trackers (02, 03) and terms (04) -/

/-- The record of channel 6 in the drift example of 02 section 2.10. -/
def drifting (baseline lastRaw : Nat) (bucket : Int) : Tracker :=
  { tracker .idle baseline with lastRaw := some lastRaw, bucket := bucket }

/-- 02 section 2.10, measurements 1 to 3 with L = 8: the bucket fills, overflows once and the baseline rises by one. -/
theorem test_drift :
    let f := { factoryProfile 6 with driftLimit := 8 }
    let m : Moment := ⟨0, .run, 1⟩
    (drifting 1500 1500 0).takeInRange 6 f m 1503 = (drifting 1500 1503 3, none) ∧
    (drifting 1500 1503 3).takeInRange 6 f m 1503 = (drifting 1500 1503 6, none) ∧
    (drifting 1500 1503 6).takeInRange 6 f m 1504 = (drifting 1501 1504 0, none) := by decide
/-- The example under 02 R27: the twentieth low measurement recalibrates. -/
theorem test_recalibration :
    ({ tracker .idle 2400 with lowRun := 19 } : Tracker).takeInRange 3 (factoryProfile 3) ⟨0, .run, 1⟩ 2330 =
      (tracker .idle 2330, some (.chRecal 3)) := by decide
/-- 03 section 3.9, sweeps 106 and 107: the third press-qualifying measurement makes the press. -/
theorem test_press :
    ({ tracker .pressPending 2000 with lastRaw := some 2125, debounce := some 2 } : Tracker).takeInRange 5 (factoryProfile 5)
        ⟨0, .run, 107⟩ 2128 =
      ({ tracker .active 2000 with lastRaw := some 2128, activeSince := some 107 }, some (.chPress 5)) := by decide
/-- 02 section 2.10: the hold-limit release keeps the baseline and sets the reseed mark. -/
theorem test_holdLimit :
    let s := after (.holdLimitExpiry 4) (withTracker 4
      { tracker .active 2000 with lastRaw := some 2150, activeSince := some 1, holdTimer := .running 20000000 })
    s.trackers.get 4 = { tracker .idle 2000 with lastRaw := some 2150, activeSince := some 1, reseed := true } ∧
    (s.delivery.get .a).queue.map (·.report) = [.chRelease 4 .idle .holdLimit] := by decide

/-- The two-hand term of 04 section 4.10 at a close, with the stamps of channels 4 and 5. -/
def twoHand (number x y : BitVec 32) (state : TermState) : State :=
  { opened with
    active := some { factoryConfiguration with
      terms := setAt factoryConfiguration.terms 0
        { enabled := true, function := .all, inputs := [.channel 4, .channel 5], holdSweeps := 1, window := 2 } }
    sequencer := { opened.sequencer with number := number }
    terms := setAt opened.terms 0 { blankTerm state with arming := if state = .arming then some 1 else none }
    trackers :=
      setAt (setAt opened.trackers 4 { tracker .active 2000 with activeSince := some x }) 5
        { tracker .active 2000 with activeSince := some y } }

/-- 04 section 4.10, closes 301, 302 and 325. -/
theorem test_term_arms : (((twoHand 301 300 301 .false).evaluateTerm 0).terms.get 0).state = .arming := by decide
theorem test_term_true :
    ((twoHand 302 300 301 .arming).evaluateTerm 0).terms.get 0 = { state := .true, arming := none, trueSince := some 302 } := by decide
theorem test_term_blocked : (((twoHand 325 320 325 .false).evaluateTerm 0).terms.get 0).state = .blocked := by decide

/-! ### The image store (09) -/

/-- 09 section 9.11, STORE 1: none valid, so slot 0 and generation 1. -/
theorem test_store :
    answer (.store .a 1) .a (leased factoryConfiguration) = some (.accepted, [0x00, 0, 0, 0, 1]) := by decide
/-- 09 R164: 30 ms of erasing, 25 ms of programming, 5 ms of verifying. -/
theorem test_erasingEnd :
    (after .erasingEnd (storing .erasing .erased)).images.store.map (fun r => (r.phase, r.endTime)) =
      some (.programming, milliseconds 55) := by decide
theorem test_programmingEnd :
    (after .programmingEnd (storing .programming .erased)).images.store.map (fun r => (r.phase, r.endTime)) =
      some (.verifying, milliseconds 35) := by decide
theorem test_verifyingEnd_fails :
    let s := after (.verifyingEnd 1 none) (storing .verifying programmed)
    s.images.lastResult = some .verifyFail ∧ s.images.slot0.check = none ∧
    (s.delivery.get .a).queue.map (·.report) = [.store .verifyFail] := by decide
theorem test_supplyLow :
    let s := after .supplyLow (storing .verifying programmed)
    s.supply = .low ∧ s.images.lastResult = some .supplyFail ∧ s.images.store = none := by decide
theorem test_supplyGood : (after .supplyGood { opened with supply := .low }).supply = .good := by decide

/-! ### Status, ports and resets (10, 11) -/

/-- 11 section 11.4, time 3, but for the source of a part as delivered: POWER, FACTORY, all else at its value after reset. -/
theorem test_readStatus :
    answer (.readStatus .a 1) .a State.reset =
      some (.ok, [0x01, 0x02, 0, 0, 0, 0, 0, 0, 0x00, 0xFF, 0x00, 0x00, 0x00] ++ List.replicate 20 0x00) := by decide
theorem test_identify : answer (.identify .c 1) .c State.reset = some (.ok, [0x5A, 0x03, 0x24, 0x01]) := by decide
theorem test_clearCounters :
    (after (.clearCounters .a 1) { opened with status := { opened.status with counters :=
      { Counters.zero with sweepOverruns := 0xFFFF, lapses := ⟨1, 2, 3⟩ } } }).status.counters = .zero := by decide
/-- 10 section 10.3: CHECK_ERROR with tag 2Ah, and port B's count rises by one. -/
theorem test_transportRefusal :
    let s := after (.transportRefusal .b [0x03, 0x04, 0x2A, 0xCE] false) opened
    (s.ports.get .b).held = some ⟨.checkError, 0x2A, []⟩ ∧ s.status.counters.checkErrors = ⟨0, 1, 0⟩ := by decide
/-- 01 R5: a transaction's start marks the measurement in progress. -/
theorem test_transactionStart :
    let s := after (.transactionStart .b 0x3A .write [0x03]) (sweeping 3)
    s.unit.map (·.disturbed) = some true ∧ (s.ports.get .b).buffer = [0x03] := by decide
/-- 10 R172: the 41st data byte is acknowledged and the 42nd is not, and it sets the overflow mark without being stored. -/
theorem test_byte_acknowledgement :
    let port (count : Nat) := (opened.ports.get .a).begun .write (List.replicate count 7)
    (port 40).acknowledgesByte = true ∧ (port 41).acknowledgesByte = false ∧ (port 41).overflow = false ∧
    (port 42).overflow = true ∧ (port 42).buffer.length = 41 := by decide
/-- 10 section 10.3: the four bytes are taken as READ_STATE with tag 2Ah when the transaction ends. -/
theorem test_transactionEnd :
    let s := after (.transactionStart .a 0x3A .write [0x03, 0x04, 0x2A, 0xCF]) opened
    (((after (.transactionEnd .a) s).ports.get .a).held.map fun r => (r.status, r.tag, r.payload.length)) = some (.ok, 0x2A, 48) := by
  decide
/-- 10 section 10.6: a repeated start ends the write transaction and the read begins with the response. -/
theorem test_repeated_start :
    let s := after (.transactionStart .a 0x3A .write [0x03, 0x42, 0x01, 0xBA]) opened
    let t := after (.transactionStart .a 0x3A .read []) s
    (List.range 9).map (t.ports.get .a).readByte = [0x07, 0x00, 0x01, 0x5A, 0x03, 0x24, 0x01, 0x76, 0xFF] := by decide
theorem test_powerReset :
    let s := after .powerReset (leased slower)
    s.phase = .inReset ∧ s.status.cause = .power ∧ s.lease = .free ∧ (s.delivery.get .a).session = none := by decide
theorem test_lineReset : (after .lineReset opened).status.cause = .line := by decide
/-- 09 R158: the load lasts 2 ms; 10 R169: a high strap selects 3Bh. -/
theorem test_resetEnd :
    let s := after (.resetEnd ⟨true, false, false⟩) (after .powerReset opened)
    s.phase = .loading (milliseconds 2) ∧ (s.ports.get .a).address = 0x3B ∧ (s.ports.get .b).address = 0x3A := by decide
theorem test_restartDelayExpiry :
    let s := after (.restartDelayExpiry ⟨false, false, false⟩) { opened with restartDelay := some 20000 }
    s.status.cause = .restart ∧ s.phase = .loading 28000 := by decide
/-- 09 section 9.11: a new part loads the factory configuration. -/
theorem test_startUpLoadComplete :
    let s := after .startUpLoadComplete (after (.resetEnd ⟨false, false, false⟩) (after .powerReset opened))
    s.phase = .running ∧ s.active = some factoryConfiguration ∧ s.status.source = .factory ∧
    s.sequencer.nextTick = some (milliseconds 22) := by decide

/-! ### Witnesses: for each statement with hypotheses, states and operands that meet them, clause by clause -/

theorem serves_opened : opened.serves .a := ⟨rfl, level, rfl⟩

theorem serves_leased (staging : Configuration) : (leased staging).serves .a := ⟨rfl, level, rfl⟩

theorem holds_leased (staging : Configuration) : (leased staging).holds .a :=
  ⟨serves_leased staging, staging, _, _, rfl⟩

theorem holds_storing (phase : StorePhase) (cells : Slot) : (storing phase cells).holds .a :=
  ⟨⟨rfl, level, rfl⟩, factoryConfiguration, _, _, rfl⟩

theorem witness_StepTakesTheFrontCommand :
    ({ opened with pending := [.sweepTick, .identify .a 1] } : State).pending = .sweepTick :: [.identify .a 1] ∧
    State.reset.pending = [] := ⟨rfl, rfl⟩

theorem witness_SilentUntilLoaded :
    (after .powerReset opened).phase ≠ .running ∧
    (after (.resetEnd ⟨false, false, false⟩) (after .powerReset opened)).phase ≠ .running ∧
    Instr.sweepTick ≠ .supplyLow ∧ Instr.sweepTick ≠ .supplyGood ∧ Instr.sweepTick ≠ .powerReset ∧
    Instr.sweepTick ≠ .lineReset ∧ Instr.sweepTick ≠ .startUpLoadComplete ∧
    ∀ straps, Instr.sweepTick ≠ .resetEnd straps :=
  ⟨by decide, by decide, by decide, by decide, by decide, by decide, by decide, fun _ h => Instr.noConfusion h⟩

/-- Codes on either side of those let through: 02h, 41h. -/
theorem witness_SessionGate :
    IsRequest (.closeSession .c 7) .c 0x02 7 ∧ IsRequest (.clearCounters .c 7) .c 0x41 7 ∧ opened.phase = .running ∧
    (opened.delivery.get .c).session = none := ⟨⟨rfl, rfl⟩, ⟨rfl, rfl⟩, rfl, rfl⟩

/-- No holder, another holder, and the holder while COMMITTING; the first and the last gated code. -/
theorem witness_LeaseGate :
    IsRequest (.releaseLease .a 7) .a 0x21 7 ∧ IsRequest (.restart .b 7) .b 0x31 7 ∧
    opened.serves .a ∧ opened.lease.holder ≠ some .a ∧
    (leased slower).serves .b ∧ (leased slower).lease.holder ≠ some .b ∧
    committing.serves .a ∧ committing.lease = .committing (some .a) slower true :=
  ⟨⟨rfl, rfl⟩, ⟨rfl, rfl⟩, serves_opened, by decide, ⟨rfl, level, rfl⟩, by decide, ⟨rfl, level, rfl⟩, rfl⟩

/-- On a CLOSED and on an OPEN port; classes 3 and 4, mode 1 and 2, threshold 1, 32, 0 and 33. -/
theorem witness_OpenSession :
    State.reset.phase = .running ∧ opened.phase = .running ∧
    ((3 : Byte).toNat ≤ 3 ∧ (1 : Byte).toNat ≤ 1 ∧ 1 ≤ (1 : Byte).toNat ∧ (32 : Byte).toNat ≤ 32) ∧
    3 < (4 : Byte).toNat ∧ 1 < (2 : Byte).toNat ∧ (0 : Byte).toNat = 0 ∧ 32 < (33 : Byte).toNat := by decide

theorem witness_CloseSession : (leased slower).serves .a ∧ committing.serves .a :=
  ⟨serves_leased slower, ⟨rfl, level, rfl⟩⟩

theorem witness_Subscribe :
    opened.phase = .running ∧ (opened.delivery.get .a).session = some level ∧ (3 : Byte).toNat ≤ 3 ∧ 3 < (4 : Byte).toNat := by
  decide

theorem witness_ReadState : opened.serves .a := serves_opened

theorem witness_ReadTracker :
    opened.serves .a ∧ (23 : Byte).toNat = (23 : ChannelId).val ∧ 24 ≤ (24 : Byte).toNat :=
  ⟨serves_opened, by decide, by decide⟩

theorem witness_PulseEnd :
    let d := port pulse (entries 1 3 0) 4 .empty
    let s := withPort .c { d with line := { d.line with active := true, pulseEnd := some 40 } }
    s.phase = .running ∧ (s.delivery.get .c).line.pulseEnd = some 40 := by decide

/-- A CLOSED port; 31 entries, the pulse mode's third append among them; a port re-opened at this moment; 32 entries; and a
lapsed set. -/
theorem witness_OfferedEvent :
    (opened.delivery.get .c).session = none ∧
    (let d := (withPort .c (port pulse (entries 1 2 0) 3 .empty)).delivery.get .c
     d.session = some pulse ∧ d.lapsed = .empty ∧ d.queue.length < 32 ∧ pulse.mode = .pulse ∧
     d.unread + 1 = pulse.threshold ∧ pulse.rearm = some .armed) ∧
    (let d := (withPort .c (port level (entries 1 31 0) 32 .empty)).delivery.get .c
     d.session = some level ∧ d.lapsed = .empty ∧ d.queue.length < 32 ∧ d.reopened ≠ some State.reset.now) ∧
    (let d := (withPort .c { port level [] 1 .empty with reopened := some 0 }).delivery.get .c
     d.session = some level ∧ d.lapsed = .empty ∧ d.queue.length < 32 ∧ d.reopened = some State.reset.now) ∧
    (let d := (withPort .c (port level (entries 1 32 0) 33 .empty)).delivery.get .c
     d.session = some level ∧ 32 ≤ d.queue.length) ∧
    (let d := (withPort .c (port level (entries 1 32 0) 33 { Lapsed.empty with epoch := true })).delivery.get .c
     d.session = some level ∧ d.lapsed ≠ .empty) := by decide

/-- 05 section 5.7: port C's session marks channel 7 and not channel 8, TRANSITIONS and not MAINTENANCE. -/
theorem witness_EventsReachSubscribers :
    ((withPort .c (port pulse [] 1 .empty)).delivery.get .c).session = some pulse ∧
    (pulse.transitions = true ∧ pulse.channelMask.getLsbD 7 = true) ∧
    ¬(pulse.transitions = true ∧ pulse.channelMask.getLsbD 8 = true) ∧
    ¬(pulse.maintenance = true ∧ pulse.channelMask.getLsbD 7 = true) := by decide

/-- LEVEL mode; PULSE mode; a pulse begun at this moment; counts 1 and 8, 0 and 9; modes 0 and 1, and 2. -/
theorem witness_ReadEvents :
    (let s := withPort .a (port level (entries 40 12 4) 52 .empty)
     s.phase = .running ∧ (s.delivery.get .a).session = some level) ∧
    (let s := withPort .a (port pulse (entries 1 3 0) 4 .empty)
     s.phase = .running ∧ (s.delivery.get .a).session = some pulse) ∧
    (let d := port pulse (entries 1 3 0) 4 .empty
     let s := withPort .a { d with line := { d.line with active := true, pulseEnd := some 40 } }
     s.phase = .running ∧ (s.delivery.get .a).session = some pulse ∧ (s.delivery.get .a).line.pulseEnd = some (s.now + 40)) ∧
    (1 ≤ (1 : Byte).toNat ∧ (1 : Byte).toNat ≤ 8 ∧ (1 : Byte).toNat ≤ 1) ∧
    (1 ≤ (8 : Byte).toNat ∧ (8 : Byte).toNat ≤ 8 ∧ (0 : Byte).toNat ≤ 1) ∧
    (0 : Byte).toNat = 0 ∧ 8 < (9 : Byte).toNat ∧ (1 ≤ (8 : Byte).toNat ∧ (8 : Byte).toNat ≤ 8 ∧ 1 < (2 : Byte).toNat) := by
  decide

/-- Entries 301 to 303, 301 and 302 READ: no entry 300, the READ entry 302, the UNREAD entry 303. -/
theorem witness_AckEvents :
    let s := withPort .a (port level (entries 301 3 2) 304 .empty)
    s.serves .a ∧ (∀ e ∈ (s.delivery.get .a).queue, e.sequence ≠ 300) ∧
    (∃ old e newer, (s.delivery.get .a).queue = old ++ e :: newer ∧ e.sequence = 302 ∧ (∀ x ∈ old, x.sequence ≠ 302) ∧
      e.read = true) ∧
    (∃ old e newer, (s.delivery.get .a).queue = old ++ e :: newer ∧ e.sequence = 303 ∧ (∀ x ∈ old, x.sequence ≠ 303) ∧
      e.read = false) :=
  ⟨⟨rfl, level, rfl⟩, by decide, ⟨entries 301 1 1, _, entries 303 1 0, rfl, rfl, by decide, rfl⟩,
   ⟨entries 301 2 2, _, [], rfl, rfl, by decide, rfl⟩⟩

/-- A full queue, one with room for two, and in PULSE mode one whose drain of four reaches the threshold 3. -/
theorem witness_DrainOrder :
    let lapsed := { Lapsed.empty with epoch := true, store := some StoreResult.ok, channels := 0x004840 }
    let full := port level (entries 301 32 8) 333 lapsed
    let room := port level (entries 303 30 6) 333 lapsed
    (full.session = some level ∧ full.queue.length ≤ 32 ∧ full.nextSeq ≠ 0) ∧
    (room.session = some level ∧ room.queue.length ≤ 32 ∧ room.nextSeq ≠ 0 ∧ 2 < (opened.lapsedReports room.lapsed).length) ∧
    (let calm := port pulse (entries 301 28 28) 329 lapsed
     calm.session = some pulse ∧ calm.queue.length ≤ 32 ∧ calm.nextSeq ≠ 0 ∧ pulse.rearm = some .armed ∧
     calm.unread < pulse.threshold ∧ pulse.threshold ≤ calm.unread + (opened.lapsedReports lapsed).length) := by
  decide

/-- Two entries of port A, and a full table. -/
def crowded : State :=
  { opened with fresh := [⟨.a, 1, 3, .waiting⟩, ⟨.a, 2, 3, .waiting⟩] }

def full : State :=
  { opened with fresh := [⟨.b, 1, 3, .waiting⟩, ⟨.b, 2, 3, .waiting⟩, ⟨.c, 1, 3, .waiting⟩, ⟨.c, 2, 3, .waiting⟩,
      ⟨.a, 1, 3, .waiting⟩, ⟨.b, 3, 3, .waiting⟩] }

theorem witness_SampleRefused :
    opened.serves .a ∧ 24 ≤ (24 : Byte).toNat ∧ (23 : Byte).toNat < 24 ∧
    (8 : Byte).toNat = (8 : ChannelId).val ∧ (opened.trackers.get 8).state = .off ∧
    (7 : Byte).toNat = (7 : ChannelId).val ∧ (opened.trackers.get 7).state ≠ .off ∧
    crowded.serves .a ∧ (crowded.trackers.get 7).state ≠ .off ∧ (∃ e ∈ crowded.fresh, e.owner = .a ∧ e.tag = 2) ∧
    (∀ e ∈ crowded.fresh, ¬(e.owner = .a ∧ e.tag = 3)) ∧
    2 ≤ (crowded.fresh.filter fun e => decide (e.owner = .a)).length ∧
    full.serves .a ∧ (∀ e ∈ full.fresh, ¬(e.owner = .a ∧ e.tag = 255)) ∧
    (full.fresh.filter fun e => decide (e.owner = .a)).length < 2 ∧ 6 ≤ full.fresh.length :=
  ⟨serves_opened, by decide, by decide, by decide, by decide, by decide, by decide, ⟨rfl, level, rfl⟩, by decide, by decide,
   by decide, by decide, ⟨rfl, level, rfl⟩, by decide, by decide, by decide⟩

/-- The unit measures; a commit waits; and the unit is idle. The fifth entry of the table is port A's first. -/
theorem witness_SampleTaken :
    (7 : Byte).toNat = (7 : ChannelId).val ∧ (255 : Byte) ≠ 0 ∧
    (let s := { sweeping 3 with fresh := full.fresh.take 5 }
     s.serves .a ∧ (s.trackers.get 7).state ≠ .off ∧ (∀ e ∈ s.fresh, ¬(e.owner = .a ∧ e.tag = 255)) ∧
     (s.fresh.filter fun e => decide (e.owner = .a)).length < 2 ∧ s.fresh.length < 6 ∧ s.unit ≠ none) ∧
    (committing.serves .a ∧ (committing.trackers.get 7).state ≠ .off ∧ committing.fresh = [] ∧
     committing.sequencer.position = none ∧ ∃ h staging dirty, committing.lease = .committing h staging dirty) ∧
    (opened.serves .a ∧ (opened.trackers.get 7).state ≠ .off ∧ opened.fresh = [] ∧ opened.unit = none ∧
     opened.sequencer.position = none ∧ ∀ h staging dirty, opened.lease ≠ .committing h staging dirty) :=
  ⟨by decide, by decide, ⟨⟨rfl, level, rfl⟩, by decide, by decide, by decide, by decide, by decide⟩,
   ⟨⟨rfl, level, rfl⟩, by decide, rfl, rfl, _, _, _, rfl⟩,
   ⟨serves_opened, by decide, rfl, rfl, rfl, fun _ _ _ h => Lease.noConfusion h⟩⟩

/-- A table with an entry of port A in each state. -/
def sampled : State :=
  { opened with
    unit := some (claim .fresh 4 .first false)
    fresh := [⟨.a, 1, 3, .waiting⟩, ⟨.a, 2, 4, .measuring⟩, ⟨.b, 3, 5, .ready (.ok 2035 (some 2000) .idle) 404256⟩] }

theorem witness_FetchSample :
    sampled.serves .a ∧ sampled.serves .b ∧ (∀ e ∈ sampled.fresh, ¬(e.owner = .a ∧ e.tag = 3)) ∧
    (sampled.fresh.find? fun e => decide (e.owner = .a) && decide (e.tag = 1)) = some ⟨.a, 1, 3, .waiting⟩ ∧
    (sampled.fresh.find? fun e => decide (e.owner = .a) && decide (e.tag = 2)) = some ⟨.a, 2, 4, .measuring⟩ ∧
    (sampled.fresh.find? fun e => decide (e.owner = .b) && decide (e.tag = 3)) =
      some ⟨.b, 3, 5, .ready (.ok 2035 (some 2000) .idle) 404256⟩ :=
  ⟨⟨rfl, level, rfl⟩, ⟨rfl, level, rfl⟩, by decide, by decide, by decide, by decide⟩

theorem witness_SampleFreed :
    sampled.serves .a ∧ (∀ e ∈ sampled.fresh, ¬(e.owner = .a ∧ e.tag = 255)) ∧
    (sampled.fresh.find? fun e => decide (e.owner = .a) && decide (e.tag = 1)) = some ⟨.a, 1, 3, .waiting⟩ ∧
    sampled.phase = .running ∧
    (sampled.fresh.find? fun e => decide (e.owner = .b) && decide (e.tag = 3)) =
      some ⟨.b, 3, 5, .ready (.ok 2035 (some 2000) .idle) 404256⟩ :=
  ⟨⟨rfl, level, rfl⟩, by decide, by decide, rfl, by decide⟩

/-- Ranks A 3, B 1 (11 section 11.4): the configuration in force. -/
def ranked : Configuration :=
  { factoryConfiguration with ports := ⟨⟨3, .activeLow⟩, ⟨1, .activeLow⟩, ⟨0, .activeLow⟩⟩ }

/-- Every row of the table of R132, the parameter preempt at 1 and 2, and equal ranks. -/
theorem witness_TakeLease :
    opened.phase = .running ∧ (opened.delivery.get .c).session = none ∧ opened.isOpen .a ∧
    1 < (2 : Byte).toNat ∧ (1 : Byte).toNat ≤ 1 ∧
    opened.lease = .free ∧ (leased slower).isOpen .a ∧ (leased slower).lease = .held .a slower true 8000000 ∧
    (let s := { leased ranked with lease := .held .b ranked false 8000000, active := some ranked }
     s.phase = .running ∧ s.isOpen .a ∧ s.lease = .held .b ranked false 8000000 ∧ Port.b ≠ .a ∧
     (s.config.ports.get .b).rank < (s.config.ports.get .a).rank) ∧
    ((leased slower).isOpen .b ∧ ((leased slower).config.ports.get .b).rank ≤ ((leased slower).config.ports.get .a).rank) ∧
    (committing.isOpen .a ∧ committing.lease = .committing (some .a) slower true) ∧
    (committing.isOpen .b ∧ some Port.a ≠ some .b) :=
  ⟨rfl, rfl, ⟨level, rfl⟩, by decide, by decide, rfl, ⟨level, rfl⟩, rfl,
   ⟨rfl, ⟨level, rfl⟩, rfl, by decide, by decide⟩, ⟨⟨level, rfl⟩, by decide⟩, ⟨⟨level, rfl⟩, rfl⟩, ⟨⟨level, rfl⟩, by decide⟩⟩

theorem witness_ReleaseLease :
    opened.serves .a ∧ opened.lease.holder ≠ some .a ∧ committing.serves .a ∧
    committing.lease = .committing (some .a) slower true ∧ (leased slower).serves .a ∧
    (leased slower).lease = .held .a slower true 8000000 :=
  ⟨serves_opened, by decide, ⟨rfl, level, rfl⟩, rfl, serves_leased slower, rfl⟩

theorem witness_LeaseTimerExpiry :
    (leased slower).phase = .running ∧ (leased slower).lease = .held .a slower true 8000000 ∧
    committing.phase = .running ∧ ∀ h staging dirty expiry, committing.lease ≠ .held h staging dirty expiry :=
  ⟨rfl, rfl, rfl, fun _ _ _ _ h => Lease.noConfusion h⟩

theorem witness_HaltResumeRestart :
    ((leased slower).holds .a ∧ (leased slower).sequencer.run = .run ∧ (leased slower).images.store = none) ∧
    (let s := { leased slower with sequencer := { opened.sequencer with run := .halted, nextTick := none } }
     s.holds .a ∧ s.sequencer.run = .halted) ∧
    ((storing .erasing .erased).holds .a ∧ (storing .erasing .erased).images.store ≠ none) :=
  ⟨⟨holds_leased slower, rfl, rfl⟩, ⟨⟨⟨rfl, level, rfl⟩, _, _, _, rfl⟩, rfl⟩, holds_storing _ _, by decide⟩

/-- The first and the last field of each range at its ends: in range, and one beyond. -/
theorem witness_SetChannel :
    (leased slower).serves .a ∧ (leased slower).lease = .held .a slower true 8000000 ∧
    (23 : Byte).toNat = (23 : ChannelId).val ∧
    answer (.setChannel .a 1 23 ⟨1, 2, 1, 9, 1, 1, 0, 0, 1, 0, 1, 1, 1, 0⟩) .a (leased slower) = some (.ok, [0x01]) ∧
    answer (.setChannel .a 1 23 ⟨1, 255, 63, 16, 1, 4095, 255, 255, 4095, 255, 255, 15, 15, 255⟩) .a (leased slower) =
      some (.ok, [0x01]) ∧
    answer (.setChannel .a 1 24 factoryParams) .a (leased slower) = some (.badValue, [0]) ∧
    answer (.setChannel .a 1 23 { factoryParams with touch := 4096 }) .a (leased slower) = some (.badValue, [6]) ∧
    answer (.setChannel .a 1 23 { factoryParams with negativeBand := 4096 }) .a (leased slower) = some (.badValue, [10]) ∧
    answer (.setChannel .a 1 23 { factoryParams with releaseDebounce := 16 }) .a (leased slower) = some (.badValue, [15]) :=
  ⟨serves_leased slower, rfl, by decide, by decide, by decide, by decide, by decide, by decide, by decide⟩

theorem witness_SetTerm :
    (leased slower).serves .a ∧ (leased slower).lease = .held .a slower true 8000000 ∧
    (15 : Byte).toNat = (15 : TermId).val ∧
    answer (.setTerm .a 1 15 ⟨1, 3, 63, 63, [0x00, 0x17, 0x20, 0x2F]⟩) .a (leased slower) = some (.ok, [0x01]) ∧
    answer (.setTerm .a 1 16 ⟨1, 3, 63, 63, [0x00]⟩) .a (leased slower) = some (.badValue, [0]) ∧
    answer (.setTerm .a 1 15 ⟨1, 3, 63, 63, []⟩) .a (leased slower) = some (.badValue, [5]) ∧
    answer (.setTerm .a 1 15 ⟨1, 3, 64, 63, [0x00, 0x18]⟩) .a (leased slower) = some (.badValue, [7]) ∧
    answer (.setTerm .a 1 15 ⟨1, 3, 63, 64, [0x30]⟩) .a (leased slower) = some (.badValue, [6]) ∧
    answer (.setTerm .a 1 15 ⟨1, 3, 63, 64, [0x2F]⟩) .a (leased slower) = some (.badValue, [4]) :=
  ⟨serves_leased slower, rfl, by decide, by decide, by decide, by decide, by decide, by decide, by decide⟩

theorem witness_SetScanlistHubPort :
    (leased slower).serves .a ∧ (leased slower).lease = .held .a slower true 8000000 ∧
    answer (.setScanlist .a 1 (List.replicate 24 23)) .a (leased slower) = some (.ok, [0x01]) ∧
    answer (.setScanlist .a 1 (List.replicate 25 23)) .a (leased slower) = some (.badValue, [0]) ∧
    answer (.setScanlist .a 1 []) .a (leased slower) = some (.badValue, [0]) ∧
    answer (.setHub .a 1 500 1 100) .a (leased slower) = some (.ok, [0x01]) ∧
    answer (.setHub .a 1 501 1 100) .a (leased slower) = some (.badValue, [0]) ∧
    answer (.setHub .a 1 5 1 4) .a (leased slower) = some (.badValue, [3]) ∧
    answer (.setPort .a 1 2 3 1) .a (leased slower) = some (.ok, [0x01]) ∧
    answer (.setPort .a 1 3 3 1) .a (leased slower) = some (.badValue, [0]) ∧
    answer (.setPort .a 1 2 4 1) .a (leased slower) = some (.badValue, [1]) :=
  ⟨serves_leased slower, rfl, by decide, by decide, by decide, by decide, by decide, by decide, by decide, by decide, by decide⟩

/-! #### Image slots -/

theorem factory_is_valid : configValid factoryConfiguration = true := rfl

/-- A slot that holds the factory configuration with a generation and its check. -/
def image (generation : BitVec 32) : Slot :=
  { generation := generation, configuration := some factoryConfiguration,
    check := some (Config.crc16 generation factoryConfiguration) }

theorem image_content (generation : BitVec 32) (low : 1 ≤ generation.toNat) (high : generation.toNat ≤ 4294967294) :
    (image generation).content = some factoryConfiguration := by
  simp [image, Slot.content, low, high, factory_is_valid]

/-- The holder's hub with the slots given and no store in progress. -/
def imaged (slot0 slot1 : Slot) : State :=
  { leased slower with images := { slot0 := slot0, slot1 := slot1, store := none, lastResult := none, cuts := 0 } }

theorem imaged_slot0 (slot0 slot1 : Slot) : (imaged slot0 slot1).images.validContent .slot0 = slot0.content := rfl

theorem imaged_slot1 (slot0 slot1 : Slot) : (imaged slot0 slot1).images.validContent .slot1 = slot1.content := rfl

theorem erased_content : Slot.erased.content = none := rfl

/-- Neither slot valid; equal generations; and slot 1 the newer. -/
theorem witness_LoadStaging :
    (∀ slot0 slot1, (imaged slot0 slot1).serves .a ∧ (imaged slot0 slot1).lease = .held .a slower true 8000000) ∧
    ((imaged .erased .erased).images.validContent .slot0 = none ∧ (imaged .erased .erased).images.validContent .slot1 = none) ∧
    ((imaged (image 4) (image 4)).images.validContent .slot0 = some factoryConfiguration ∧
     (image 4).generation.toNat ≤ (image 4).generation.toNat) ∧
    ((imaged (image 3) (image 4)).images.validContent .slot1 = some factoryConfiguration ∧
     (image 3).generation.toNat < (image 4).generation.toNat) ∧
    2 < (3 : Byte).toNat :=
  ⟨fun _ _ => ⟨⟨rfl, level, rfl⟩, rfl⟩, ⟨rfl, rfl⟩, ⟨image_content 4 (by decide) (by decide), Nat.le_refl _⟩,
   ⟨image_content 4 (by decide) (by decide), by decide⟩, by decide⟩

/-- The bytes between the ranges of item codes name none. -/
theorem no_item_has_code : (∀ item, itemCode item ≠ 0x18) ∧ ∀ item, itemCode item ≠ 0x53 := by
  have channel : ∀ n : ChannelId, itemCode (.channel n) ≠ 0x18 ∧ itemCode (.channel n) ≠ 0x53 := by decide
  have term : ∀ k : TermId, itemCode (.term k) ≠ 0x18 ∧ itemCode (.term k) ≠ 0x53 := by decide
  refine ⟨fun item => ?_, fun item => ?_⟩ <;> rcases item with n | k | _ | _ | p
  · exact (channel n).1
  · exact (term k).1
  · decide
  · decide
  · cases p <;> decide
  · exact (channel n).2
  · exact (term k).2
  · decide
  · decide
  · cases p <;> decide

theorem witness_ReadItems :
    opened.serves .a ∧ (leased slower).serves .a ∧ (leased slower).lease = .held .a slower true 8000000 ∧
    committing.serves .a ∧ committing.lease = .committing (some .a) slower true ∧
    ((∀ item, itemCode item ≠ 0x18) ∧ ∀ item, itemCode item ≠ 0x53) ∧ (leased slower).lease.holder = some .a :=
  ⟨serves_opened, serves_leased slower, rfl, ⟨rfl, level, rfl⟩, rfl, no_item_has_code, rfl⟩

theorem witness_WhatWasSetIsRead :
    (leased slower).holds .a ∧ requestPort (.setPort .a 1 2 3 1) = some .a ∧
    requestParts (.setPort .a 1 2 3 1) = some (0x26, 1, [2, 3, 1]) ∧
    (∃ t, exec (.setPort .a 1 2 3 1) (leased slower) = .next t ∧ (t.ports.get .a).held = some ⟨.ok, 1, [0x01]⟩) :=
  ⟨holds_leased slower, rfl, rfl, _, rfl, by decide⟩

/-- A staging configuration that fails a constraint: T 60, H 30, N 40 (the example under 08 R146). -/
def invalid : Configuration :=
  { factoryConfiguration with
    channels := setAt factoryConfiguration.channels 4 { factoryProfile 4 with touch := 60, hysteresis := 30, noiseBand := 40 } }

theorem witness_CommitRequest :
    ((leased factoryConfiguration).serves .a ∧
      (leased factoryConfiguration).lease = .held .a factoryConfiguration false 8000000) ∧
    ((leased invalid).serves .a ∧ (leased invalid).lease = .held .a invalid true 8000000 ∧
      firstViolation invalid = some (.channel 4, .chNoiseBand)) ∧
    ((leased slower).serves .a ∧ (leased slower).lease = .held .a slower true 8000000 ∧ firstViolation slower = none ∧
      (leased slower).sequencer.position = none) :=
  ⟨⟨serves_leased _, rfl⟩, ⟨serves_leased _, rfl, rfl⟩, ⟨serves_leased _, rfl, rfl, rfl⟩⟩

/-- With and without a holder, and with a sample that waits. -/
theorem witness_CommitPoint :
    (committing.phase = .running ∧ committing.lease = .committing (some .a) slower true ∧
      committing.sequencer.position = none ∧ committing.unit = none ∧ ∀ e ∈ committing.fresh, e.state ≠ .waiting) ∧
    (let s := { committing with lease := .committing none slower true, fresh := crowded.fresh }
     s.phase = .running ∧ s.lease = .committing none slower true ∧ s.sequencer.position = none ∧ s.unit = none ∧
     s.fresh.find? (fun e => decide (e.state = .waiting)) = some ⟨.a, 1, 3, .waiting⟩) :=
  ⟨⟨rfl, rfl, rfl, rfl, by decide⟩, ⟨rfl, rfl, rfl, rfl, by decide⟩⟩

theorem witness_StoreRequest :
    ((storing .erasing .erased).holds .a ∧ (storing .erasing .erased).images.store ≠ none) ∧
    (let s := { imaged .erased .erased with supply := .low }
     s.holds .a ∧ s.images.store = none ∧ s.supply = .low) ∧
    (∀ slot0 slot1, (imaged slot0 slot1).holds .a ∧ (imaged slot0 slot1).images.store = none ∧
      (imaged slot0 slot1).supply = .good) ∧
    ((imaged .erased .erased).images.validContent .slot0 = none ∧ (imaged .erased .erased).images.validContent .slot1 = none) ∧
    ((imaged (image 4294967294) .erased).images.validContent .slot0 ≠ none ∧
      (imaged (image 4294967294) .erased).images.validContent .slot1 = none) ∧
    ((imaged (image 4294967293) (image 4294967293)).images.validContent .slot0 ≠ none ∧
      (image 4294967293).generation ≠ 4294967294#32) ∧
    ((imaged (image 4294967293) (image 4294967294)).images.validContent .slot1 ≠ none ∧
      (image 4294967293).generation.toNat < (image 4294967294).generation.toNat) ∧
    ((imaged (image 1) (image 2)).images.validContent .slot1 ≠ none ∧ (image 2).generation ≠ 4294967294#32) := by
  refine ⟨⟨holds_storing _ _, by decide⟩, ⟨⟨⟨rfl, level, rfl⟩, _, _, _, rfl⟩, rfl, rfl⟩,
    fun _ _ => ⟨⟨⟨rfl, level, rfl⟩, _, _, _, rfl⟩, rfl, rfl⟩, ⟨rfl, rfl⟩, ⟨?_, rfl⟩, ⟨?_, by decide⟩, ⟨?_, by decide⟩, ⟨?_, by decide⟩⟩
  · rw [imaged_slot0, image_content _ (by decide) (by decide)]; simp
  · rw [imaged_slot0, image_content _ (by decide) (by decide)]; simp
  · rw [imaged_slot1, image_content _ (by decide) (by decide)]; simp
  · rw [imaged_slot1, image_content _ (by decide) (by decide)]; simp

theorem witness_StorePhases :
    ∀ phase cells, (storing phase cells).phase = .running ∧ ∃ r, (storing phase cells).images.store = some r ∧ r.phase = phase :=
  fun _ _ => ⟨rfl, _, rfl, rfl⟩

/-- What StoreSound asks of the verifying store of generation 1 into slot 0, the other slot erased. -/
theorem storing_sound : (storing .verifying programmed).StoreSound where
  check := by intro r h; cases h; rfl
  generation := by intro r h; cases h; decide
  newer := by intro r h cfg hc; cases h; exact absurd hc (by simp [erased_content, storing, ImageStore.slot, SlotId.other])
  erased := by intro r h hp; cases h; exact absurd hp (by decide)
  written := by intro r h _; cases h; rfl
  before := fun h => absurd rfl h

theorem storing_configured : (storing .verifying programmed).ConfigurationSound where
  running := fun _ => ⟨factoryConfiguration, rfl, rfl, ⟨level, rfl⟩, rfl, rfl⟩
  before := fun h => absurd rfl h
  snapshot := by intro r h; cases h; rfl

theorem witness_StoredImageIsNewest :
    (storing .verifying programmed).phase = .running ∧ (storing .verifying programmed).StoreSound ∧
    (storing .verifying programmed).ConfigurationSound ∧
    (∃ r, (storing .verifying programmed).images.store = some r ∧ r.phase = .verifying ∧
      ∃ t, exec (.verifyingEnd r.generation (some r.snapshot)) (storing .verifying programmed) = .next t) :=
  ⟨rfl, storing_sound, storing_configured, _, rfl, rfl, _, rfl⟩

theorem witness_SupplyChanges :
    ({ opened with supply := .low } : State).supply = .low ∧ (opened.supply = .good ∧ opened.images.store = none) ∧
    ((storing .verifying programmed).supply = .good ∧ ∃ r, (storing .verifying programmed).images.store = some r ∧ r.phase = .verifying) :=
  ⟨rfl, ⟨rfl, rfl⟩, ⟨rfl, _, rfl, rfl⟩⟩

/-! #### Status and ports -/

theorem witness_StatusAndIdentity : State.reset.phase = .running := rfl

theorem witness_ClearCounters :
    opened.phase = .running ∧ (opened.delivery.get .c).session = none ∧ opened.isOpen .a := ⟨rfl, rfl, level, rfl⟩

/-- Frames one short and one over, 40 and 41 bytes after the length; the wrong sum; an unknown code; one parameter too many;
and the request. -/
theorem witness_TransportChecks :
    opened.phase = .running ∧ (2 : Byte).toNat < 3 ∧ 40 < (41 : Byte).toNat ∧ [0x04#8, 0x2A].length ≠ (3 : Byte).toNat ∧
    (List.replicate 37 (0 : Byte)).length ≤ 37 ∧
    (([0x03, 0x04, 0x2A, 0xCE] : List Byte).map BitVec.toNat).sum % 256 ≠ 0 ∧
    (([0x03, 0x08, 0x2A, 0xCB] : List Byte).map BitVec.toNat).sum % 256 = 0 ∧
    (([0x04, 0x04, 0x2A, 0x00, 0xCE] : List Byte).map BitVec.toNat).sum % 256 = 0 ∧
    (([0x03, 0x04, 0x2A, 0xCF] : List Byte).map BitVec.toNat).sum % 256 = 0 := by decide

/-- No transaction, at the port's address and at another; a read; and writes of nothing, of a request and of a damaged one. -/
theorem witness_Transactions :
    (List.replicate 40 (0 : Byte)).length < 41 ∧ ¬(List.replicate 41 (0 : Byte)).length < 41 ∧
    opened.phase = .running ∧ (opened.ports.get .a).indication = .none ∧ (0x3A : BitVec 7) = (opened.ports.get .a).address ∧
    (0x3B : BitVec 7) ≠ (opened.ports.get .a).address ∧
    ((after (.transactionStart .a 0x3A .read []) opened).ports.get .a).indication = .read ∧
    ((after (.transactionStart .a 0x3A .write []) opened).ports.get .a).buffer = [] ∧
    (let i := (after (.transactionStart .a 0x3A .write [0x03, 0x04, 0x2A, 0xCF]) opened).ports.get .a
     i.indication = .write ∧ i.buffer ≠ [] ∧ decodeMessage .a i.buffer i.overflow = .ok (.readState .a 0x2A)) ∧
    (let i := (after (.transactionStart .a 0x3A .write (List.replicate 42 0)) opened).ports.get .a
     i.indication = .write ∧ i.overflow = true ∧ i.buffer.length = 41 ∧ decodeMessage .a i.buffer i.overflow = .error .frame) := by
  decide

theorem witness_ResponseFrame :
    (List.replicate 65 (0 : Byte)).length ≤ 65 ∧
    (let i := (after (.transactionStart .a 0x3A .read []) (after (.identify .a 1) opened)).ports.get .a
     i.indication = .read ∧ i.held = some ⟨.ok, 1, identity⟩) ∧
    (let i := (after (.transactionStart .a 0x3A .read []) opened).ports.get .a
     i.indication = .read ∧ i.held = none) ∧
    (opened.ports.get .a).indication ≠ .read := by decide

/-! #### Measurements and sweeps -/

/-- Sweep 1 seeks channel 3 with the unit idle. -/
def seeking (lease : Lease) (fresh : List FreshEntry) : State :=
  { opened with lease := lease, fresh := fresh, sequencer := { opened.sequencer with number := 1, position := some 3 } }

theorem witness_Arbiter :
    (sweeping 3).unit ≠ none ∧
    (committing.unit = none ∧ committing.lease = .committing (some .a) slower true ∧ committing.sequencer.position = none) ∧
    (let s := seeking (.committing (some .a) slower true) crowded.fresh
     s.unit = none ∧ s.lease = .committing (some .a) slower true ∧ s.sequencer.position = some 3) ∧
    (let s := seeking .free sampled.fresh
     s.unit = none ∧ s.fresh = [] ++ ⟨.a, 1, 3, .waiting⟩ :: sampled.fresh.drop 1) ∧
    (opened.unit = none ∧ (∀ x ∈ opened.fresh, x.state ≠ .waiting) ∧ opened.sequencer.position = none) ∧
    (let s := seeking .free (sampled.fresh.drop 2)
     s.unit = none ∧ (∀ x ∈ s.fresh, x.state ≠ .waiting) ∧ s.sequencer.position = some 3) ∧
    (∀ h staging dirty, Lease.free ≠ .committing h staging dirty) :=
  ⟨by decide, ⟨rfl, rfl, rfl⟩, ⟨rfl, rfl, rfl⟩, ⟨rfl, rfl⟩, ⟨rfl, by decide, rfl⟩, ⟨rfl, by decide, rfl⟩,
   fun _ _ _ h => Lease.noConfusion h⟩

/-- The opened hub with every channel OFF. -/
def silent : State := { opened with trackers := Vector.ofFn fun _ => blankTracker .off }

theorem witness_SweepTick :
    opened.phase = .running ∧ opened.sequencer.nextTick = some 80000 ∧ opened.sequencer.run = .run ∧
    (let s := { opened with sequencer := { opened.sequencer with run := .halted, nextTick := none } }
     s.phase = .running ∧ s.sequencer.nextTick = none) ∧
    (let s := { opened with sequencer := { opened.sequencer with run := .halted } }
     s.phase = .running ∧ s.sequencer.nextTick = some 80000 ∧ s.sequencer.run = .halted) ∧
    ((sweeping 3).sequencer.run = .run ∧ (sweeping 3).sequencer.nextTick = some 80000 ∧ (sweeping 3).sequencer.position ≠ none) ∧
    (committing.sequencer.run = .run ∧ committing.sequencer.nextTick = some 80000 ∧ committing.sequencer.position = none ∧
      committing.lease = .committing (some .a) slower true) ∧
    (opened.sequencer.position = none ∧ (∀ h staging dirty, opened.lease ≠ .committing h staging dirty) ∧
      opened.config.scanList = [] ++ (0 : ChannelId).val :: opened.config.scanList.drop 1 ∧
      ¬∃ n : ChannelId, n.val = (0 : ChannelId).val ∧ (opened.trackers.get n).state = .off) ∧
    (silent.phase = .running ∧ silent.sequencer.run = .run ∧ silent.sequencer.nextTick = some 80000 ∧
      silent.sequencer.position = none ∧ (∀ h staging dirty, silent.lease ≠ .committing h staging dirty) ∧
      ∀ m ∈ silent.config.scanList, ∃ n : ChannelId, n.val = m ∧ (silent.trackers.get n).state = .off) := by
  refine ⟨rfl, rfl, rfl, ⟨rfl, rfl⟩, ⟨rfl, rfl, rfl⟩, ⟨rfl, rfl, by decide⟩, ⟨rfl, rfl, rfl, rfl⟩,
    ⟨rfl, fun _ _ _ h => Lease.noConfusion h, rfl, ?_⟩, ⟨rfl, rfl, rfl, rfl, fun _ _ _ h => Lease.noConfusion h, ?_⟩⟩
  · rintro ⟨n, hn, h⟩
    obtain rfl : n = 0 := Fin.ext hn
    exact absurd h (by decide)
  · intro m hm
    have hlt : m < 24 := List.mem_range.mp hm
    exact ⟨⟨m, hlt⟩, rfl, by simp [silent, blankTracker]⟩

/-- A configuration in which channel 3 is quiet. -/
def quiet : Configuration :=
  { factoryConfiguration with channels := setAt factoryConfiguration.channels 3 { factoryProfile 3 with quiet := true } }

/-- The claim of sweep 1 on channel 3, quiet and disturbed, as a first measurement or a repeat. -/
def disturbed (kind : ClaimKind) (retry : Retry) (fresh : List FreshEntry) : State :=
  { sweeping 3 with active := some quiet, unit := some (claim kind 3 retry true), fresh := fresh }

/-- Counts 0, 1 and 4095 at resolution 12; a first measurement disturbed, its repeat, one that is not; a claim of an earlier
sweep; the sweep's position followed by a channel that is not OFF, and by none. -/
theorem witness_SweepMeasurement :
    ((sweeping 3).phase = .running ∧ (sweeping 3).unit = some (claim (.sweep 1) 3 .first false)) ∧
    ((0 : BitVec 16).toNat < 2 ^ ((sweeping 3).config.channels.get 3).resolution ∧
      (1 : BitVec 16).toNat < 2 ^ ((sweeping 3).config.channels.get 3).resolution ∧
      (4095 : BitVec 16).toNat < 2 ^ ((sweeping 3).config.channels.get 3).resolution) ∧
    (∀ retry, (disturbed (.sweep 1) retry []).unit = some (claim (.sweep 1) 3 retry true)) ∧
    ((disturbed (.sweep 1) .first []).config.channels.get 3).quiet = true ∧
    (2000 : BitVec 16).toNat < 2 ^ ((disturbed (.sweep 1) .first []).config.channels.get 3).resolution ∧
    (let s := { sweeping 3 with sequencer := { opened.sequencer with number := 2, position := some 0 } }
     s.unit = some (claim (.sweep 1) 3 .first false) ∧ s.sequencer.number ≠ 1) ∧
    ((sweeping 3).sequencer.position = some 3 ∧ (sweeping 3).sequencer.number = 1 ∧
      (sweeping 3).config.scanList = List.range 3 ++ (3 : ChannelId).val :: List.range' 4 20 ∧
      (3 : ChannelId).val ∉ List.range 3 ∧
      List.range' 4 20 = [] ++ (4 : ChannelId).val :: List.range' 5 19 ∧ ((sweeping 3).trackers.get 4).state ≠ .off) ∧
    ((sweeping 7).sequencer.position = some 7 ∧ (sweeping 7).sequencer.number = 1 ∧
      (sweeping 7).config.scanList = List.range 7 ++ (7 : ChannelId).val :: List.range' 8 16 ∧
      (7 : ChannelId).val ∉ List.range 7 ∧
      ∀ k ∈ List.range' 8 16, ∃ j : ChannelId, j.val = k ∧ ((sweeping 7).trackers.get j).state = .off) :=
  ⟨⟨rfl, rfl⟩, by decide, fun _ => rfl, by decide, by decide, by decide, by decide, by decide⟩

theorem witness_FreshMeasurement :
    (let s := disturbed .fresh .first [⟨.a, 2, 3, .measuring⟩]
     s.phase = .running ∧ s.unit = some (claim .fresh 3 .first true) ∧ (s.config.channels.get 3).quiet = true ∧
     ∃ e ∈ s.fresh, e.channel = 3 ∧ e.state = .measuring) ∧
    (let s := disturbed .fresh .first []
     s.unit = some (claim .fresh 3 .first true) ∧ ¬∃ e ∈ s.fresh, e.channel = 3 ∧ e.state = .measuring) ∧
    (disturbed .fresh .repeated []).unit = some (claim .fresh 3 .repeated true) ∧
    (sampled.phase = .running ∧ sampled.unit = some (claim .fresh 4 .first false) ∧
      (sampled.config.channels.get 4).quiet = false) ∧
    ((0 : BitVec 16).toNat = 0 ∧ (4095 : BitVec 16).toNat + 1 = 2 ^ (sampled.config.channels.get 4).resolution ∧
      (4094 : BitVec 16).toNat ≠ 0 ∧ (4094 : BitVec 16).toNat + 1 ≠ 2 ^ (sampled.config.channels.get 4).resolution) := by
  decide

/-- Each state; the run at 6 and 7; the low-run count one below the limit, at differences −40 and −41 of band 40; the drift
band's upper end; and the bucket one short of overflowing either way. -/
theorem witness_TrackerTakesACount :
    (blankTracker .fault).state = .fault ∧ (blankTracker .seeding).state = .seeding ∧
    ({ tracker .idle 2000 with outOfRangeRun := 6 } : Tracker).outOfRangeRun + 1 < 8 ∧
    8 ≤ ({ tracker .idle 2000 with outOfRangeRun := 7 } : Tracker).outOfRangeRun + 1 ∧
    ({ tracker .idle 2000 with reseed := true } : Tracker).reseed = true ∧
    (tracker .active 2000).baseline = some 2000 ∧ (tracker .active 2000).reseed = false ∧
    ((1959 : Int) - 2000 < -((factoryProfile 3).negativeBand : Int) ∧ ¬((1960 : Int) - 2000 < -((factoryProfile 3).negativeBand : Int))) ∧
    (factoryProfile 3).lowRunLimit ≤ 19 + 1 ∧ ¬((factoryProfile 3).lowRunLimit ≤ 18 + 1) ∧
    (0 < (factoryProfile 3).driftLimit ∧ (2040 : Int) - 2000 ≤ (factoryProfile 3).noiseBand) ∧
    (((factoryProfile 3).driftLimit : Int) ≤ 63 + 1 ∧ (-63 : Int) + -1 ≤ -((factoryProfile 3).driftLimit : Int)) := by decide

/-- The levels 110 and 90 of the factory thresholds, met and missed by one; P 3 and Q 3, met and missed by one. -/
theorem witness_StateStep :
    let f := factoryProfile 5
    ((f.touch : Int) + f.hysteresis ≤ 110 ∧ ¬((f.touch : Int) + f.hysteresis ≤ 109)) ∧
    ((90 : Int) ≤ (f.touch : Int) - f.hysteresis ∧ ¬((91 : Int) ≤ (f.touch : Int) - f.hysteresis)) ∧
    ({ tracker .pressPending 2000 with debounce := some 1 } : Tracker).debounce = some 1 ∧
    (f.pressDebounce ≤ 2 + 1 ∧ ¬(f.pressDebounce ≤ 1 + 1) ∧ f.releaseDebounce ≤ 2 + 1 ∧ ¬(f.releaseDebounce ≤ 1 + 1)) ∧
    (let earlier : List (Moment × Int) := [(⟨80000, .run, 1⟩, 110), (⟨160000, .run, 2⟩, 115)]
     let last : Moment × Int := (⟨240000, .run, 3⟩, 120)
     (tracker .idle 2000).state = .idle ∧ (∀ c ∈ earlier ++ [last], (f.touch : Int) + f.hysteresis ≤ c.2) ∧
     earlier.length + 1 = f.pressDebounce ∧ ([] : List (Moment × Int)).length + 1 < f.pressDebounce) ∧
    (let earlier : List (Moment × Int) := [(⟨80000, .run, 1⟩, 90), (⟨160000, .halted, 2⟩, 85)]
     let last : Moment × Int := (⟨240000, .run, 3⟩, 70)
     (tracker .active 2000).state = .active ∧ (∀ c ∈ earlier ++ [last], c.2 ≤ (f.touch : Int) - f.hysteresis) ∧
     earlier.length + 1 = f.releaseDebounce ∧ ([] : List (Moment × Int)).length + 1 < f.releaseDebounce) := by
  decide

theorem witness_HoldLimitExpiry :
    (let s := withTracker 4 { tracker .active 2000 with activeSince := some 1, holdTimer := .running 20000000 }
     s.phase = .running ∧ (s.trackers.get 4).holdTimer = .running 20000000) ∧
    (let s := withTracker 4 { tracker .active 2000 with activeSince := some 1, holdTimer := .paused 4000 }
     s.phase = .running ∧ (s.trackers.get 4).holdTimer = .paused 4000) := by decide

/-- 04 section 4.10: a disabled term; two stamps, in the window 2 at a spread of 2 and out of it at 3; one hold sweep; each
state; and no input active. -/
theorem witness_TermEvaluation :
    (opened.config.terms.get 0).enabled = false ∧
    ((twoHand 302 300 302 .false).config.terms.get 0).enabled = true ∧
    ((302#32 - 300#32).toNat ≤ (302#32 - 302#32).toNat + 2 ∧ ¬(303#32 - 300#32).toNat ≤ (303#32 - 303#32).toNat + 2) ∧
    1 ≤ ((twoHand 302 300 302 .false).config.terms.get 0).holdSweeps ∧
    ((twoHand 302 300 301 .arming).terms.get 0).arming = some 1 ∧ ((twoHand 302 300 301 .true).terms.get 0).state = .true ∧
    ((twoHand 302 300 301 .blocked).terms.get 0).state = .blocked ∧ (opened.trackers.get 4).state = .seeding :=
  ⟨rfl, rfl, by decide, by decide, rfl, rfl, rfl, rfl⟩

/-! #### Resets, messages and the whole hub -/

theorem witness_ResetBegins :
    opened.images.store = none ∧ ∃ r, (storing .erasing .erased).images.store = some r := ⟨rfl, _, rfl⟩

theorem witness_LoadCompletes :
    (after .powerReset opened).phase = .inReset ∧ opened.phase ≠ .inReset ∧
    (let s := { opened with restartDelay := some 20000 }
     s.phase = .running ∧ s.restartDelay = some 20000) ∧
    opened.restartDelay = none ∧ (∀ due, opened.phase ≠ .loading due) ∧
    (after (.resetEnd ⟨false, true, false⟩) (after .powerReset opened)).phase = .loading 8000 :=
  ⟨by decide, by decide, ⟨rfl, rfl⟩, rfl, fun _ h => Phase.noConfusion h, by decide⟩

/-- The longest request that fits, and a message that is one. -/
theorem witness_MessageRoundTrip :
    requestPort (.setScanlist .c 1 (List.replicate 36 7)) = some .c ∧
    (Instr.setScanlist .c 1 (List.replicate 36 7)).wellFormed = true ∧
    decodeMessage .b [0x03, 0x04, 0x2A, 0xCF] false = .ok (.readState .b 0x2A) := by decide

theorem witness_WhatChangesWhat :
    (∃ t, exec .sweepTick opened = .next t) ∧ (∃ t, exec .commitPoint committing = .next t) ∧
    (∃ t, exec (.transactionEnd .a) opened = .next t) := ⟨⟨_, rfl⟩, ⟨_, rfl⟩, ⟨_, rfl⟩⟩

/-! #### Invariants: hubs at work that meet them and step -/

/-- A queue of three entries, the first READ, at port C in LEVEL mode; the front command a tick. -/
def delivering : State :=
  { opened with
    pending := [.sweepTick]
    delivery := opened.delivery.set .c (port level (entries 1 3 1) 4 .empty) }

theorem empty_port_sound : (port level [] 1 .empty).Sound where
  capacity := by decide
  lapsedFull := fun h => absurd rfl h
  readFirst := List.Pairwise.nil
  sequences := ⟨by decide, 1, rfl⟩
  closed := fun h => nomatch h
  threshold := by intro se h; cases h; decide
  level := by intro se h _; cases h; decide
  pulse := by intro se h hm; cases h; cases hm

theorem working_port_sound : (port level (entries 1 3 1) 4 .empty).Sound where
  capacity := by decide
  lapsedFull := fun h => absurd rfl h
  readFirst := by decide
  sequences := ⟨by decide, 1, rfl, by decide, rfl, by decide, rfl, by decide, rfl⟩
  closed := fun h => nomatch h
  threshold := by intro se h; cases h; decide
  level := by intro se h _; cases h; decide
  pulse := by intro se h hm; cases h; cases hm

theorem witness_DeliveryStaysSound : delivering.DeliverySound ∧ ∃ t, step delivering = .next t :=
  ⟨{ ports := fun p => by
       cases p
       · exact empty_port_sound
       · exact empty_port_sound
       · exact working_port_sound
     closedBefore := fun h => absurd rfl h
     driven := by intro p; cases p <;> rfl
     polarity := by intro cfg h p; cases h; cases p <;> rfl }, _, rfl⟩

theorem witness_MeasuringStaysSound :
    sampled.FreshSound ∧ sampled.ArbiterSound ∧ ∃ t, step sampled = .next t :=
  ⟨{ six := by decide
     two := by intro p; cases p <;> decide
     tags := by decide
     nonzero := by decide
     closed := by intro p; cases p <;> decide
     measuring := by
       intro e he hs
       simp only [sampled, List.mem_cons, List.not_mem_nil, or_false] at he
       rcases he with rfl | rfl | rfl
       · cases hs
       · exact ⟨_, rfl, rfl, rfl⟩
       · cases hs },
   { idle := fun h => nomatch h
     position := fun h => absurd rfl h
     ticking := fun _ _ => by decide
     before := fun h => absurd rfl h }, _, rfl⟩

/-- Port A stages a change while channel 4 is active under a running hold limit. -/
def touched : State :=
  { leased slower with
    pending := [.commit .a 1]
    trackers := setAt opened.trackers 4 { tracker .active 2000 with activeSince := some 7, outOfRangeRun := 3 } }

theorem seeded_sound (n : ChannelId) : (opened.trackers.get n).Sound (factoryProfile n) .run := by
  have h : opened.trackers.get n = blankTracker (if n.val < 8 then .seeding else .off) := get_ofFn _ n
  rw [h]
  by_cases hn : n.val < 8
  · simp only [hn, if_true]
    constructor <;> simp [blankTracker, factoryProfile, hn, ChannelState.isJudged, ChannelState.isPending, ChannelState.isActive]
  · simp only [hn, if_false]
    constructor <;> simp [blankTracker, factoryProfile, hn, ChannelState.isJudged, ChannelState.isPending, ChannelState.isActive]

theorem touched_sound :
    ({ tracker .active 2000 with activeSince := some 7, outOfRangeRun := 3 } : Tracker).Sound (factoryProfile 4) .run := by
  constructor <;>
    simp [tracker, blankTracker, factoryProfile, ChannelState.isJudged, ChannelState.isPending, ChannelState.isActive]

theorem witness_ConfigurationStaysSound :
    touched.ConfigurationSound ∧ touched.TrackersSound ∧ touched.TermsSound ∧ ∃ t, step touched = .next t :=
  ⟨{ running := fun _ => ⟨factoryConfiguration, rfl, rfl, ⟨level, rfl⟩, rfl, rfl⟩
     before := fun h => absurd rfl h
     snapshot := by intro r h; cases h },
   { running := ⟨fun _ => rfl, fun _ => rfl⟩
     sound := by
       intro cfg h n
       cases h
       have hf : factoryConfiguration.channels.get n = factoryProfile n := get_ofFn _ n
       rw [hf]
       by_cases hn : n = 4
       · subst hn
         exact touched_sound
       · have ht : touched.trackers.get n = opened.trackers.get n := get_setAt_ne _ hn _
         rw [ht]
         exact seeded_sound n
     before := fun h => nomatch h },
   { running := ⟨fun _ => rfl, fun _ => rfl⟩
     sound := by
       intro cfg h k
       cases h
       have ht : touched.terms.get k = blankTerm .off := get_ofFn _ k
       have hd : factoryConfiguration.terms.get k = factoryTerm k := get_ofFn _ k
       rw [ht, hd]
       constructor <;> simp [blankTerm, factoryTerm]
     before := fun h => nomatch h }, _, rfl⟩

/-- A store that verifies while port A writes. -/
def writing : State := after (.transactionStart .a 0x3A .write [0x03, 0x04]) (storing .verifying programmed)

theorem witness_StoreAndPortsStaySound :
    (storing .verifying programmed).StoreSound ∧ (∃ t, step (storing .verifying programmed) = .next t) ∧
    writing.PortsSound ∧ ∃ t, step writing = .next t :=
  ⟨storing_sound, ⟨_, rfl⟩,
   { ports := by
       intro p
       cases p <;> exact ⟨by decide, by decide, by decide, by decide⟩
     before := fun h => absurd rfl h }, _, rfl⟩

end Sys2Proof.Tests
end

section
/-! PROOFS. The commit point: what its steps make of every field of the hub but the delivery unit and the status block
(08 R150, R151). -/

namespace Sys2Proof.Machine

section CommitSteps

variable (s : State) (staging : Configuration)

@[simp] theorem State.commitSteps_pending : (s.commitSteps staging).pending = s.pending := by
  simp [State.commitSteps, State.restartSchedule, State.enactStaging]
@[simp] theorem State.commitSteps_now : (s.commitSteps staging).now = s.now := by
  simp [State.commitSteps, State.restartSchedule, State.enactStaging]
@[simp] theorem State.commitSteps_phase : (s.commitSteps staging).phase = s.phase := by
  simp [State.commitSteps, State.restartSchedule, State.enactStaging]
@[simp] theorem State.commitSteps_unit : (s.commitSteps staging).unit = s.unit := by
  simp [State.commitSteps, State.restartSchedule, State.enactStaging]
@[simp] theorem State.commitSteps_lease : (s.commitSteps staging).lease = s.lease := by
  simp [State.commitSteps, State.restartSchedule, State.enactStaging]
@[simp] theorem State.commitSteps_restartDelay : (s.commitSteps staging).restartDelay = s.restartDelay := by
  simp [State.commitSteps, State.restartSchedule, State.enactStaging]
@[simp] theorem State.commitSteps_active : (s.commitSteps staging).active = some staging := by
  simp [State.commitSteps, State.restartSchedule, State.enactStaging]
@[simp] theorem State.commitSteps_epoch : (s.commitSteps staging).epoch = s.epoch + 1 := by
  simp [State.commitSteps, State.restartSchedule, State.enactStaging]
@[simp] theorem State.commitSteps_images : (s.commitSteps staging).images = s.images := by
  simp [State.commitSteps, State.restartSchedule, State.enactStaging]
@[simp] theorem State.commitSteps_supply : (s.commitSteps staging).supply = s.supply := by
  simp [State.commitSteps, State.restartSchedule, State.enactStaging]
@[simp] theorem State.commitSteps_ports : (s.commitSteps staging).ports = s.ports := by
  simp [State.commitSteps, State.restartSchedule, State.enactStaging]

/-- The schedule restarts with the period in force (01 R9). -/
@[simp] theorem State.commitSteps_sequencer : (s.commitSteps staging).sequencer =
    { s.sequencer with nextTick := some (s.now + milliseconds staging.hub.sweepPeriodMs) } := by
  simp [State.commitSteps, State.restartSchedule, State.enactStaging, State.sweepPeriod, State.config]

/-- Each channel brought into line with its new profile (08 R150, step 4). -/
theorem State.commitSteps_trackers (n : ChannelId) : (s.commitSteps staging).trackers.get n =
    if s.config.channels.get n = staging.channels.get n then s.trackers.get n
    else if sameMeasurement (s.config.channels.get n) (staging.channels.get n) then
      (s.trackers.get n).rethreshold s.moment (s.config.channels.get n) (staging.channels.get n)
    else blankTracker (startState (staging.channels.get n)) := by
  simp [State.commitSteps, State.restartSchedule, State.enactStaging, State.realignChannels_get, State.moment]

/-- Each changed term reset (08 R150, step 5). -/
theorem State.commitSteps_terms (k : TermId) : (s.commitSteps staging).terms.get k =
    if s.config.terms.get k = staging.terms.get k then s.terms.get k
    else blankTerm (termStartState (staging.terms.get k)) := by
  simp [State.commitSteps, State.restartSchedule, State.enactStaging, State.resetTerms_get]

/-- The WAITING entries of channels now OFF completed (07 R127; 08 R150, step 6). -/
theorem State.commitSteps_fresh : (s.commitSteps staging).fresh =
    s.fresh.map (·.completeOff (fun n => decide (((s.commitSteps staging).trackers.get n).state = .off))
      (s.now + discardTicks)) := by
  simp [State.commitSteps, State.restartSchedule, State.enactStaging, State.completeOffSamples]

end CommitSteps

/-- The hub when the steps of a commit point are done and the lease is settled, before the arbiter is consulted (08 R150,
R151). -/
def State.committed (s : State) (staging : Configuration) (holder : Option Port) : State :=
  ((s.commitSteps staging).offerCommitted holder).settleLease holder

section Committed

variable (s : State) (staging : Configuration) (holder : Option Port)

@[simp] theorem State.committed_pending : (s.committed staging holder).pending = s.pending := by
  cases holder <;> simp [State.committed, State.offerCommitted, State.settleLease]
@[simp] theorem State.committed_now : (s.committed staging holder).now = s.now := by
  cases holder <;> simp [State.committed, State.offerCommitted, State.settleLease]
@[simp] theorem State.committed_phase : (s.committed staging holder).phase = s.phase := by
  cases holder <;> simp [State.committed, State.offerCommitted, State.settleLease]
@[simp] theorem State.committed_unit : (s.committed staging holder).unit = s.unit := by
  cases holder <;> simp [State.committed, State.offerCommitted, State.settleLease]
@[simp] theorem State.committed_restartDelay : (s.committed staging holder).restartDelay = s.restartDelay := by
  cases holder <;> simp [State.committed, State.offerCommitted, State.settleLease]
@[simp] theorem State.committed_active : (s.committed staging holder).active = some staging := by
  cases holder <;> simp [State.committed, State.offerCommitted, State.settleLease]
@[simp] theorem State.committed_epoch : (s.committed staging holder).epoch = s.epoch + 1 := by
  cases holder <;> simp [State.committed, State.offerCommitted, State.settleLease]
@[simp] theorem State.committed_images : (s.committed staging holder).images = s.images := by
  cases holder <;> simp [State.committed, State.offerCommitted, State.settleLease]
@[simp] theorem State.committed_supply : (s.committed staging holder).supply = s.supply := by
  cases holder <;> simp [State.committed, State.offerCommitted, State.settleLease]
@[simp] theorem State.committed_ports : (s.committed staging holder).ports = s.ports := by
  cases holder <;> simp [State.committed, State.offerCommitted, State.settleLease]
@[simp] theorem State.committed_sequencer : (s.committed staging holder).sequencer =
    { s.sequencer with nextTick := some (s.now + 4000 * staging.hub.sweepPeriodMs) } := by
  cases holder <;> simp [State.committed, State.offerCommitted, State.settleLease, milliseconds]
@[simp] theorem State.committed_trackers : (s.committed staging holder).trackers = (s.commitSteps staging).trackers := by
  cases holder <;> simp [State.committed, State.offerCommitted, State.settleLease]
@[simp] theorem State.committed_terms : (s.committed staging holder).terms = (s.commitSteps staging).terms := by
  cases holder <;> simp [State.committed, State.offerCommitted, State.settleLease]
@[simp] theorem State.committed_fresh : (s.committed staging holder).fresh = (s.commitSteps staging).fresh := by
  cases holder <;> simp [State.committed, State.offerCommitted, State.settleLease]

/-- The lease settled (08 R151): given to the holder anew, or free. -/
@[simp] theorem State.committed_lease : (s.committed staging holder).lease =
    match holder with
    | some p => .held p staging false (s.now + 4000 * (100 * staging.hub.leaseSteps))
    | none => .free := by
  cases holder <;>
    simp [State.committed, State.offerCommitted, State.settleLease, State.config, State.leaseTime, milliseconds]

theorem State.committed_transactionInProgress :
    (s.committed staging holder).transactionInProgress = s.transactionInProgress := by
  unfold State.transactionInProgress
  rw [State.committed_ports]

end Committed

end Sys2Proof.Machine
end

section
/-! PROOFS. The fresh-sample table and the arbiter stay sound at every step (01 R9, R15, R18, R21; 05 R77; 07 R113, R114). -/

namespace Sys2Proof.Machine

/-! ### The fresh-sample table -/

/-- It reads the table, the unit and the sessions alone, and of the sessions only which are CLOSED. -/
theorem State.FreshSound.of_eq {s t : State} (h : s.FreshSound) (hf : t.fresh = s.fresh) (hu : t.unit = s.unit)
    (ho : SameOpen s t) : t.FreshSound := by
  have ht := h.table.of_eq hf ho
  refine ⟨ht.six, ht.two, ht.tags, ht.nonzero, ht.closed, ?_⟩
  rw [hf, hu]
  exact h.measuring

/-- An effect on none of what it reads. -/
theorem State.FreshSound.of_frame {s t : State} (h : s.FreshSound) (hf : t.fresh = s.fresh := by simp)
    (hu : t.unit = s.unit := by simp) (hd : t.delivery = s.delivery := by simp) : t.FreshSound :=
  h.of_eq hf hu (SameOpen.of_eq hd)

/-- Entries are freed: all of a port whose session is CLOSED by it. -/
theorem State.FreshSound.filter {s t : State} (h : s.FreshSound) (f : FreshEntry → Bool)
    (hf : t.fresh = s.fresh.filter f) (hu : t.unit = s.unit)
    (hc : ∀ p, (t.delivery.get p).session = none →
      (s.delivery.get p).session = none ∨ ∀ e, f e = true → e.owner ≠ p) : t.FreshSound := by
  have ht := h.table.filter f hf hc
  refine ⟨ht.six, ht.two, ht.tags, ht.nonzero, ht.closed, ?_⟩
  rw [hf, hu]
  exact fun e he => h.measuring e (List.mem_filter.1 he).1

/-- Under a claim of kind SWEEP, and under none, no entry is MEASURING. -/
theorem State.FreshSound.no_measuring {s : State} (h : s.FreshSound)
    (hu : ∀ m, s.unit = some m → m.kind ≠ .fresh) : ∀ e ∈ s.fresh, e.state ≠ .measuring := by
  intro e he hm
  obtain ⟨m, hsome, hkind, _⟩ := h.measuring e he hm
  exact hu m hsome hkind

/-- A table without a MEASURING entry is sound after a consultation. -/
theorem State.Table.consult_sound {s : State} (h : s.Table) (hn : ∀ e ∈ s.fresh, e.state ≠ .measuring) :
    s.consult.FreshSound :=
  State.consult_fresh_sound h fun e he hm => absurd hm (hn e he)

theorem State.FreshSound.consult {s : State} (h : s.FreshSound) : s.consult.FreshSound :=
  State.consult_fresh_sound h.table h.measuring

/-- The end of a claim with no entry MEASURING: the table is that of a sound state, its states of entries apart. -/
theorem State.Table.endClaim_sound {s : State} (h : s.Table) (hn : ∀ e ∈ s.fresh, e.state ≠ .measuring) :
    s.endClaim.FreshSound :=
  State.Table.consult_sound (h.of_eq rfl (SameOpen.of_eq rfl)) hn

/-- Where a port's record is replaced, the session of another port is CLOSED if it was. -/
theorem State.setDeliveryOf_closed {s : State} {p q : Port} {d : Delivery}
    (hq : ((s.setDeliveryOf p d).delivery.get q).session = none) : q = p ∨ (s.delivery.get q).session = none := by
  by_cases e : q = p
  · exact .inl e
  · exact .inr (by simpa [State.setDeliveryOf, PortMap.get_set_ne _ e] using hq)

/-- A new WAITING entry that the four checks let pass (07 R113 to R115). -/
theorem State.FreshSound.sampled {s : State} (h : s.FreshSound) {p : Port} {n : ChannelId} {tag : Byte}
    (ho : s.isOpen p) (ht : tag ≠ 0) (hr : s.sampleRefusal p n tag = none) :
    (s.setFresh (s.fresh ++ [{ owner := p, tag := tag, channel := n, state := .waiting }])).FreshSound := by
  unfold State.sampleRefusal at hr
  split_ifs at hr with hoff hused hlimit hfull
  have hunused : ∀ e ∈ s.fresh, ¬(e.owner = p ∧ e.tag = tag) := by
    simpa [State.sampleEntry, FreshEntry.named] using hused
  constructor
  case six => simpa using Nat.lt_of_not_le hfull
  case two =>
    intro q
    by_cases e : p = q
    · subst e
      have hcount : s.samplesOf p < 2 := Nat.lt_of_not_le hlimit
      simpa [State.setFresh, List.filter_append, State.samplesOf] using hcount
    · simpa [State.setFresh, List.filter_append, e] using h.two q
  case tags =>
    refine List.pairwise_append.2 ⟨h.tags, List.pairwise_singleton _ _, ?_⟩
    intro a ha b hb
    rw [List.mem_singleton.1 hb]
    exact hunused a ha
  case nonzero =>
    intro e he
    rcases List.mem_append.1 he with he | he
    · exact h.nonzero e he
    · rw [List.mem_singleton.1 he]; exact ht
  case closed =>
    intro q hq e he
    rcases List.mem_append.1 he with he | he
    · exact h.closed q hq e he
    · rw [List.mem_singleton.1 he]
      rintro rfl
      obtain ⟨se, hse⟩ := ho
      exact absurd (hse.symm.trans hq) (by simp)
  case measuring =>
    intro e he hm
    rcases List.mem_append.1 he with he | he
    · exact h.measuring e he hm
    · rw [List.mem_singleton.1 he] at hm; cases hm

/-- The claim of kind FRESH that ends leaves no entry MEASURING (07 R118). -/
theorem State.FreshSound.completed {s : State} (h : s.FreshSound) {m : Measurement} (hu : s.unit = some m)
    (r : SampleResult) : ∀ e ∈ (s.completeFresh m.channel r).fresh, e.state ≠ .measuring := by
  intro e he
  obtain ⟨a, ha, rfl⟩ := List.mem_map.1 he
  unfold FreshEntry.complete
  split
  · simp
  · rename_i hnot
    intro hm
    obtain ⟨m', hu', _, hchannel⟩ := h.measuring a ha hm
    cases hu.symm.trans hu'
    exact hnot ⟨hchannel.symm, hm⟩

theorem SameOpen.trackerTakes (s : State) (n : ChannelId) (raw : Nat) (b : Bool) :
    SameOpen s (s.trackerTakes n raw b) := by
  unfold State.trackerTakes
  split
  · exact SameOpen.trackerMoves _ _ _
  · exact (SameOpen.of_eq (State.countOutOfRange_delivery s n)).trans (SameOpen.trackerMoves _ _ _)

/-- A sweep begins on a sound table (01 R11). -/
theorem State.FreshSound.beginSweep {s : State} (h : s.FreshSound) : s.beginSweep.FreshSound := by
  unfold State.beginSweep
  dsimp only
  split
  · exact State.FreshSound.consult (h.of_eq (by simp) (by simp) (SameOpen.of_eq (by simp [State.placeOrClose])))
  · exact h.of_eq (by simp) (by simp) ((SameOpen.of_eq (by simp)).trans (SameOpen.placeOrClose _ none))


/-- The commit point leaves the table sound: the unit is IDLE, so no entry is MEASURING (08 R150, step 6). -/
theorem State.FreshSound.commitPoint {s : State} (h : s.FreshSound) (staging : Configuration) (holder : Option Port)
    (hu : s.unit = none) : (s.committed staging holder).consult.FreshSound := by
  have hidle := h.no_measuring (by simp [hu])
  have hfresh := (s.committed_fresh staging holder).trans (s.commitSteps_fresh staging)
  refine State.Table.consult_sound (h.table.map _ (fun e => ?_) hfresh (SameOpen.commitSteps s staging holder)) ?_
  · obtain ⟨howner, htag, _⟩ := FreshEntry.completeOff_keeps
      (fun n => decide (((s.commitSteps staging).trackers.get n).state = .off)) (s.now + discardTicks) e
    exact ⟨howner, htag⟩
  · rw [hfresh]
    intro e he
    obtain ⟨a, ha, rfl⟩ := List.mem_map.1 he
    unfold FreshEntry.completeOff
    split
    · simp
    · exact hidle a ha

/-- What each effect of the commands does to the fresh-sample table. -/
theorem freshSound_keeps : Keeps State.FreshSound where
  now _ _ h := h.of_frame
  lease _ _ h := h.of_frame
  hold _ _ _ _ h := h.of_frame
  counters _ _ h := h.of_frame
  opened s p se _ _ _ _ h := h.filter _ rfl rfl fun q hq => by
    rcases State.setDeliveryOf_closed hq with rfl | hq
    · exact .inr fun e he => of_decide_eq_true he
    · exact .inl hq
  closed s p _ h := h.filter _ rfl rfl fun q hq => by
    rcases State.setDeliveryOf_closed hq with rfl | hq
    · exact .inr fun e he => of_decide_eq_true he
    · exact .inl hq
  subscribed s p se _ _ _ _ hse h := h.of_eq (by simp) (by simp)
    (SameOpen.set fun hn => by simp [Delivery.subscribe, hse] at hn)
  readOut s p _ _ _ _ h := h.of_eq (by simp) (by simp) (SameOpen.set (Delivery.lineAfterRead_isOpen _ _))
  acknowledged s p _ _ _ _ _ _ h := h.of_eq rfl rfl (SameOpen.set (State.drain_open s _))
  offered s p r h := h.of_eq (by simp) (by simp) (SameOpen.offerTo s p r)
  granted _ _ _ _ _ h := h.of_frame rfl rfl rfl
  freed _ _ _ h := h.of_frame
  staged _ _ _ _ _ _ _ _ _ h := h.of_frame
  committing _ _ _ _ _ _ _ h := State.FreshSound.consult h.of_frame
  sampled _ _ _ _ _ ho ht hr h := (h.sampled ho ht hr).consult
  unsampled _ _ _ h := h.filter _ rfl rfl fun _ hq => .inl hq
  halted s _ h := by
    unfold State.halted
    split
    · exact h
    · exact h.of_frame
  resumed s _ h := by
    unfold State.resumed
    split
    · exact h
    · exact h.of_frame
  restarting _ _ _ h := h.of_frame
  storing _ _ _ _ _ h := h.of_frame rfl rfl rfl
  ended _ _ _ h := h.of_frame
  begun _ _ _ _ _ h := h.of_frame
  disturbed s h := by
    refine ⟨h.six, h.two, h.tags, h.nonzero, h.closed, fun e he hm => ?_⟩
    obtain ⟨m, hu, hkind, hchannel⟩ := h.measuring e he hm
    exact ⟨{ m with disturbed := true }, by simp [State.markDisturbed, hu], hkind, hchannel⟩
  repeated s m _ hu h := by
    refine ⟨h.six, h.two, h.tags, h.nonzero, h.closed, fun e he hm => ?_⟩
    obtain ⟨m', hu', hkind, hchannel⟩ := h.measuring e he hm
    cases hu.symm.trans hu'
    exact ⟨_, rfl, hkind, hchannel⟩
  counted s n raw b _ _ h := h.of_eq (by simp) (by simp) (SameOpen.trackerTakes s n raw b)
  sweepEnded s m claim _ hu hk h := by
    refine State.Table.endClaim_sound (h.table.of_eq (by simp) (SameOpen.sequencerActs s claim)) ?_
    simpa using h.no_measuring (by simp [hu, hk])
  freshEnded s m r _ hu _ h := by
    refine State.Table.endClaim_sound (h.table.map _ (fun e => ?_) rfl (SameOpen.of_eq rfl)) (h.completed hu r)
    exact ⟨(FreshEntry.complete_keeps _ _ _ e).1, (FreshEntry.complete_keeps _ _ _ e).2.1⟩
  freshLeft s m _ hu _ hn h := by
    refine State.Table.endClaim_sound h.table fun e he hm => ?_
    obtain ⟨m', hu', _, hchannel⟩ := h.measuring e he hm
    cases hu.symm.trans hu'
    simp only [State.someMeasuring, List.any_eq_false] at hn
    exact hn e he (by simp [hchannel, hm])
  ticked _ _ _ _ h := h.of_frame
  swept _ _ _ _ _ h := h.beginSweep
  commitPoint _ holder staging _ _ _ _ hu h := h.commitPoint staging holder hu
  expired _ _ _ _ _ h := h.of_eq (by simp) (by simp) (SameOpen.trackerMoves _ _ _)
  erased _ _ _ _ _ _ h := h.of_frame
  programmed _ _ _ _ _ _ h := h.of_frame
  verified _ _ _ _ _ _ _ h := h.of_frame
  aborted _ _ _ h := h.of_frame
  supply _ _ h := h.of_frame
  pulsed _ _ _ _ _ h := h.of_eq (by simp) (by simp) (SameOpen.set id)
  reset s _ _ := by constructor <;> simp [State.beginReset]
  load _ _ _ h := h.of_frame rfl rfl rfl
  startUp s _ _ _ _ _ h := h.of_eq rfl rfl fun p hp => by cases p <;> exact hp

/-! ### The arbiter and the sequencer -/

/-- Fewer entries, and the unit and the sequencer as they were, leave nothing more that may begin; a commit that
waited may go on waiting. -/
theorem State.ArbiterSound.of_eq {s t : State} (h : s.ArbiterSound) (hu : t.unit = s.unit)
    (hseq : t.sequencer = s.sequencer) (hp : t.phase = s.phase) (hf : ∀ e ∈ t.fresh, e ∈ s.fresh)
    (hw : s.commitWaiting = true → t.commitWaiting = true) : t.ArbiterSound := by
  constructor
  · rw [hu, hseq]
    intro hidle
    obtain ⟨hpos, hwaits⟩ := h.idle hidle
    exact ⟨hpos, hwaits.imp hw fun hn e he => hn e (hf e he)⟩
  · rw [hseq]; exact h.position
  · rw [hseq, hp]; exact h.ticking
  · rw [hu, hseq, hp]
    intro hne
    obtain ⟨hu, hpos, htick, hnum, hfresh⟩ := h.before hne
    exact ⟨hu, hpos, htick, hnum, List.eq_nil_iff_forall_not_mem.2 fun e he => by
      simpa [hfresh] using hf e he⟩

/-- An effect on none of what it reads. -/
theorem State.ArbiterSound.of_frame {s t : State} (h : s.ArbiterSound) (hu : t.unit = s.unit := by simp)
    (hseq : t.sequencer = s.sequencer := by simp) (hp : t.phase = s.phase := by simp)
    (hf : t.fresh = s.fresh := by simp) (hl : t.lease = s.lease := by simp) : t.ArbiterSound :=
  h.of_eq hu hseq hp (by rw [hf]; exact fun _ => id) (by unfold State.commitWaiting; rw [hl]; exact id)

theorem State.commitWaiting_iff (s : State) :
    s.commitWaiting = true ↔ ∃ holder staging dirty, s.lease = .committing holder staging dirty := by
  unfold State.commitWaiting
  split <;> simp [*]

theorem State.restartLeaseTimer_commitWaiting {s : State} (p : Port) (hw : s.commitWaiting = true) :
    (s.restartLeaseTimer p).commitWaiting = true := by
  obtain ⟨holder, staging, dirty, hl⟩ := s.commitWaiting_iff.1 hw
  simpa [State.restartLeaseTimer, hl] using hw

theorem State.stage_commitWaiting {s : State} (f : Configuration → Configuration) (hw : s.commitWaiting = true) :
    (s.stage f).commitWaiting = true := by
  obtain ⟨holder, staging, dirty, hl⟩ := s.commitWaiting_iff.1 hw
  simpa [State.stage, hl] using hw

/-- A commit goes on waiting when the session of its holder is closed (05 R76). -/
theorem State.closed_commitWaiting {s : State} (p : Port) (hw : s.commitWaiting = true) :
    (s.closed p).commitWaiting = true := by
  obtain ⟨holder, staging, dirty, hl⟩ := s.commitWaiting_iff.1 hw
  rw [State.commitWaiting_iff]
  by_cases hp : holder = some p
  · exact ⟨none, staging, dirty, by simp [State.closed, Lease.closedBy, hl, hp]⟩
  · exact ⟨holder, staging, dirty, by simp [State.closed, Lease.closedBy, hl, hp]⟩

/-- The end of a claim: the arbiter takes what waits (01 R18). -/
theorem State.endClaim_arbiter {s : State} (hp : s.phase = .running) (h : s.Seq) : s.endClaim.ArbiterSound :=
  State.consult_arbiter (by simpa using hp) (h.of_eq (by simp) (by simp))

/-- A sweep begins in RUN: it has a position, for which the unit is claimed, or it closes at once (01 R11). -/
theorem State.ArbiterSound.beginSweep {s : State} (h : s.ArbiterSound) (hp : s.phase = .running)
    (hr : s.sequencer.run = .run) : s.beginSweep.ArbiterSound := by
  unfold State.beginSweep
  dsimp only
  split
  · refine State.consult_arbiter (by simpa using hp) ⟨?_, ?_⟩ <;> simp only [State.placeOrClose_sequencer]
    · exact fun _ => hr
    · exact fun _ => h.ticking hp
  · have hlease : ∀ s : State, (s.placeOrClose none).commitWaiting = s.commitWaiting := fun s => by
      unfold State.commitWaiting; rw [State.placeOrClose_lease]
    constructor <;> simp only [State.placeOrClose_sequencer, State.placeOrClose_unit, State.placeOrClose_fresh,
      State.placeOrClose_phase, hlease]
    · exact fun hu => ⟨trivial, (h.idle hu).2⟩
    · exact fun hne => absurd rfl hne
    · exact fun _ => h.ticking hp
    · exact fun hne => absurd hp hne

/-- The commit point ends with a consultation; it has set the next tick (01 R9). -/
theorem State.ArbiterSound.commitPoint {s : State} (h : s.ArbiterSound) (hp : s.phase = .running)
    (staging : Configuration) (holder : Option Port) : (s.committed staging holder).consult.ArbiterSound :=
  State.consult_arbiter (by simpa using hp) ⟨by simpa using h.position, by simp⟩

/-- What each effect of the commands does to the arbiter and the sequencer. -/
theorem arbiterSound_keeps : Keeps State.ArbiterSound where
  now _ _ h := h.of_frame
  lease s p h := h.of_eq (by simp) (by simp) (by simp) (by simp) (State.restartLeaseTimer_commitWaiting p)
  hold _ _ _ _ h := h.of_frame
  counters _ _ h := h.of_frame
  opened s p _ _ _ _ _ h := h.of_eq rfl rfl rfl (fun _ he => (List.mem_filter.1 he).1) id
  closed s p _ h := h.of_eq rfl rfl rfl (fun _ he => (List.mem_filter.1 he).1) (State.closed_commitWaiting p)
  subscribed _ _ _ _ _ _ _ _ h := h.of_frame
  readOut _ _ _ _ _ _ h := h.of_frame
  acknowledged _ _ _ _ _ _ _ _ h := h.of_frame rfl rfl rfl rfl rfl
  offered _ _ _ h := h.of_frame
  granted _ _ _ _ hw h := h.of_eq rfl rfl rfl (fun _ => id) fun hw' => by simp [hw] at hw'
  freed _ _ hw h := h.of_eq rfl rfl rfl (fun _ => id) fun hw' => by simp [hw] at hw'
  staged _ f _ _ _ _ _ _ _ h := h.of_eq (by simp) (by simp) (by simp) (by simp) (State.stage_commitWaiting f)
  committing _ _ _ _ hp _ _ h := State.consult_arbiter hp ⟨h.position, h.ticking⟩
  sampled _ _ _ _ hp _ _ _ h := State.consult_arbiter hp ⟨h.position, h.ticking⟩
  unsampled _ _ _ h := h.of_eq rfl rfl rfl (fun _ he => (List.mem_filter.1 he).1) id
  halted s hp h := by
    unfold State.halted
    split
    · exact h
    · exact ⟨fun hu => ⟨rfl, (h.idle hu).2⟩, fun hne => absurd rfl hne, fun _ hr => (nomatch hr),
        fun hne => absurd hp hne⟩
  resumed s hp h := by
    unfold State.resumed
    split
    · exact h
    · exact ⟨h.idle, fun _ => rfl, fun _ _ => by simp, fun hne => absurd hp hne⟩
  restarting _ _ _ h := h.of_frame
  storing _ _ _ _ _ h := h.of_frame rfl rfl rfl rfl rfl
  ended _ _ _ h := h.of_frame
  begun _ _ _ _ _ h := h.of_frame
  disturbed s h :=
    ⟨fun hu => h.idle (by simpa [State.markDisturbed] using hu), h.position, h.ticking, fun hne => by
      obtain ⟨hu, hrest⟩ := h.before hne
      exact ⟨by simp [State.markDisturbed, hu], hrest⟩⟩
  repeated _ _ hp _ h := ⟨fun hu => (nomatch hu), h.position, h.ticking, fun hne => absurd hp hne⟩
  counted _ _ _ _ _ _ h := h.of_frame
  sweepEnded _ _ claim hp _ _ h := State.endClaim_arbiter (by simpa using hp) (State.sequencerActs_seq claim h.seq)
  freshEnded _ _ _ hp _ _ h := State.endClaim_arbiter hp (h.seq.of_eq rfl rfl)
  freshLeft _ _ hp _ _ _ h := State.endClaim_arbiter hp h.seq
  ticked _ _ hp _ h := ⟨h.idle, h.position, fun _ _ => by simp, fun hne => absurd hp hne⟩
  swept _ hp hr _ _ h := h.beginSweep hp hr
  commitPoint _ holder staging _ hp _ _ _ h := h.commitPoint hp staging holder
  expired _ _ _ _ _ h := h.of_frame
  erased _ _ _ _ _ _ h := h.of_frame
  programmed _ _ _ _ _ _ h := h.of_frame
  verified _ _ _ _ _ _ _ h := h.of_frame
  aborted _ _ _ h := h.of_frame
  supply _ _ h := h.of_frame
  pulsed _ _ _ _ _ h := h.of_frame
  reset s _ _ := by constructor <;> simp [State.beginReset]
  load s _ hp h := by
    have hne : s.phase ≠ .running := by simp [hp]
    exact ⟨h.idle, h.position, fun hr => (nomatch hr), fun _ => h.before hne⟩
  startUp s _ cfg _ hp _ h := by
    obtain ⟨hu, hpos, _, _, hfresh⟩ := h.before (by simp [hp])
    refine ⟨fun _ => ⟨hpos, .inr ?_⟩, fun hne => absurd hpos hne, fun _ hr => ?_, fun hne => absurd rfl hne⟩
    · show ∀ e ∈ s.fresh, e.state ≠ .waiting
      simp [hfresh]
    · have hrun : cfg.hub.startMode = .run := hr
      simp [State.startUp, hrun]

/-- Settles O56: the table and the arbiter are each kept by every effect that a command is made of. -/
theorem measuringStaysSound : Obligations.MeasuringStaysSound := by
  unfold Obligations.MeasuringStaysSound
  intro s t hstep
  exact ⟨fun h => freshSound_keeps.step
      (fun _ _ h => h.of_frame) s t h hstep,
    fun h => arbiterSound_keeps.step
      (fun _ _ h => h.of_frame) s t h hstep⟩

end Sys2Proof.Machine
end

section
/-! PROOFS. The arbiter, said case by case, and the requests that claim the unit: SAMPLE and COMMIT (01 R1, R2, R5, R18; 07
R115 to R117; 08 R147). -/

namespace Sys2Proof.Machine

/-! ### The arbiter, case by case (01 R18) -/

/-- The duration of a measurement in ticks: 2 µs, 8 ticks, for each settle step (01 R1). -/
theorem measurementTicks_eq (f : ChannelProfile) : measurementTicks f = 8 * f.settleSteps + 2 ^ f.resolution := by
  unfold measurementTicks microseconds; omega

theorem State.transactionInProgress_iff (s : State) :
    s.transactionInProgress = true ↔ ∃ p : Port, (s.ports.get p).indication ≠ .none := by
  simp only [State.transactionInProgress, List.any_eq_true, decide_eq_true_eq]
  exact ⟨fun ⟨p, _, h⟩ => ⟨p, h⟩, fun ⟨p, h⟩ => ⟨p, by cases p <;> simp [Port.all], h⟩⟩

/-- A claim as it is when it begins now (01 R1, R2, R5). -/
def State.claimNow (s : State) (kind : ClaimKind) (n : ChannelId) (retry : Retry) : Measurement where
  kind := kind
  channel := n
  retry := retry
  disturbed := s.transactionInProgress
  endTime := s.now + (8 * (s.config.channels.get n).settleSteps + 2 ^ (s.config.channels.get n).resolution)

theorem State.beginMeasurement_eq (s : State) (kind : ClaimKind) (n : ChannelId) (retry : Retry) :
    s.beginMeasurement kind n retry = { s with unit := some (s.claimNow kind n retry) } := by
  simp [State.beginMeasurement, State.setUnit, State.claimNow, State.profile, measurementTicks_eq]

theorem State.beginSweepClaim_eq (s : State) (n : ChannelId) :
    s.beginSweepClaim n = { s with unit := some (s.claimNow (.sweep s.sequencer.number) n .first) } :=
  s.beginMeasurement_eq _ n .first

theorem State.beginFreshClaim_eq (s : State) (n : ChannelId) :
    s.beginFreshClaim n =
      { s with fresh := s.fresh.map (FreshEntry.joinClaim n), unit := some (s.claimNow .fresh n .first) } :=
  (s.setFresh (s.fresh.map (FreshEntry.joinClaim n))).beginMeasurement_eq _ n .first

theorem State.consult_of_measuring {s : State} (hu : s.unit ≠ none) : s.consult = s := by
  obtain ⟨m, hm⟩ := Option.ne_none_iff_exists'.1 hu
  simp [State.consult, hm]

theorem State.consult_of_commitWaiting {s : State} (hw : s.commitWaiting = true) (hpos : s.sequencer.position = none) :
    s.consult = s := by
  cases hu : s.unit <;> simp [State.consult, hu, hw, hpos]

theorem State.consult_of_nothing {s : State} (hold : s.oldestWaiting = none) (hpos : s.sequencer.position = none) :
    s.consult = s := by
  cases hu : s.unit <;> cases hw : s.commitWaiting <;> simp [State.consult, hu, hw, hold, hpos]

theorem State.consult_of_oldest {s : State} {e : FreshEntry} (hu : s.unit = none) (hw : s.commitWaiting = false)
    (hold : s.oldestWaiting = some e) : s.consult = s.beginFreshClaim e.channel := by
  simp [State.consult, hu, hw, hold]

theorem State.consult_of_position {s : State} {n : ChannelId} (hu : s.unit = none)
    (hw : s.commitWaiting = true ∨ s.oldestWaiting = none) (hpos : s.sequencer.position = some n) :
    s.consult = s.beginSweepClaim n := by
  cases hc : s.commitWaiting
  · have hold : s.oldestWaiting = none := by simpa [hc] using hw
    simp [State.consult, hu, hc, hold, hpos]
  · simp [State.consult, hu, hc, hpos]

theorem State.oldestWaiting_eq_none {s : State} (h : ∀ e ∈ s.fresh, e.state ≠ .waiting) : s.oldestWaiting = none := by
  simpa [State.oldestWaiting] using h

/-- The oldest WAITING entry is the first after entries none of which waits. -/
theorem find_waiting {older newer : List FreshEntry} {e : FreshEntry} (ho : ∀ x ∈ older, x.state ≠ .waiting)
    (he : e.state = .waiting) :
    (older ++ e :: newer).find? (fun e => decide (e.state = .waiting)) = some e := by
  have hnone : older.find? (fun e => decide (e.state = .waiting)) = none := by simpa using ho
  rw [List.find?_append, hnone]
  simp [he]

theorem State.commitWaiting_eq_false {s : State}
    (h : ¬∃ holder staging dirty, s.lease = .committing holder staging dirty) : s.commitWaiting = false := by
  rw [← Bool.not_eq_true, s.commitWaiting_iff]; exact h

/-- Settles O43, a case of the arbiter each. -/
theorem arbiter : Obligations.Arbiter := by
  unfold Obligations.Arbiter
  intro s begins waits
  have claims (kind : ClaimKind) (n : ChannelId) (fresh : List FreshEntry)
      (h : s.consult = { s with fresh := fresh, unit := some (s.claimNow kind n .first) }) : begins kind n fresh :=
    ⟨s.transactionInProgress, s.transactionInProgress_iff, h⟩
  refine ⟨State.consult_of_measuring, fun hu => ⟨?_, ?_, ?_, ?_⟩⟩
  · exact fun hw hpos => State.consult_of_commitWaiting (s.commitWaiting_iff.2 hw) hpos
  · intro n hw hpos
    exact claims _ _ _ ((State.consult_of_position hu (.inl (s.commitWaiting_iff.2 hw)) hpos).trans
      (s.beginSweepClaim_eq n))
  · intro older e newer hw hfresh holder he
    have hold : s.oldestWaiting = some e := by
      unfold State.oldestWaiting; rw [hfresh]; exact find_waiting holder he
    exact claims _ _ _ ((State.consult_of_oldest hu (State.commitWaiting_eq_false hw) hold).trans
      (s.beginFreshClaim_eq e.channel))
  · intro _ hnone
    have hold := State.oldestWaiting_eq_none hnone
    refine ⟨State.consult_of_nothing hold, fun n hpos => ?_⟩
    exact claims _ _ _ ((State.consult_of_position hu (.inr hold) hpos).trans (s.beginSweepClaim_eq n))

/-! ### SAMPLE and COMMIT -/

/-- A SAMPLE that passes its checks is refused for nothing (07 R115). -/
theorem State.sampleRefusal_eq_none {s : State} {p : Port} {n : ChannelId} {tag : Byte}
    (hoff : (s.trackers.get n).state ≠ .off) (hused : ∀ e ∈ s.fresh, ¬(e.owner = p ∧ e.tag = tag))
    (hport : (s.fresh.filter fun e => decide (e.owner = p)).length < 2) (hfull : s.fresh.length < 6) :
    s.sampleRefusal p n tag = none := by
  have hentry : s.sampleEntry p tag = none := by simpa [State.sampleEntry, FreshEntry.named] using hused
  have hport' : ¬2 ≤ s.samplesOf p := Nat.not_le.2 hport
  simp [State.sampleRefusal, hoff, hentry, hport', Nat.not_le.2 hfull]

theorem channel?_of_val {k : Nat} {n : ChannelId} (h : k = n.val) : channel? k = some n := by
  subst h
  simp [channel?]

/-- What SAMPLE does past its checks (07 R116). -/
theorem exec_sample_taken {s : State} {p : Port} {tag channel sampleTag : Byte} {n : ChannelId} (hs : s.serves p)
    (hn : channel.toNat = n.val) (ht : sampleTag ≠ 0) (hr : s.sampleRefusal p n sampleTag = none) :
    exec (.sample p tag channel sampleTag) s = .next
      (((s.took p).setFresh (s.fresh ++ [⟨p, sampleTag, n, .waiting⟩])).consult.holding p .deferred tag
        [channel, sampleTag]) := by
  have hr' : (s.took p).sampleRefusal p n sampleTag = none := hr
  show execSample p tag channel sampleTag s = _
  unfold execSample
  rw [State.request_anySession hs, channel?_of_val hn]
  simp only [ht, if_false, hr']
  rfl

/-- The lease of a commit that waits is none of a request's business. -/
theorem State.took_commitWaiting (s : State) (p : Port) : (s.took p).commitWaiting = s.commitWaiting := by
  unfold State.took State.leaseAfter State.commitWaiting
  cases s.lease <;> rfl

/-- Where no entry waits, the new one alone joins the claim on its channel. -/
theorem map_joinClaim_new {l : List FreshEntry} (h : ∀ e ∈ l, e.state ≠ .waiting) (p : Port) (tag : Byte)
    (n : ChannelId) : (l ++ [(⟨p, tag, n, .waiting⟩ : FreshEntry)]).map (FreshEntry.joinClaim n) =
      l ++ [⟨p, tag, n, .measuring⟩] := by
  have hkeep : l.map (FreshEntry.joinClaim n) = l := by
    conv_rhs => rw [← List.map_id l]
    exact List.map_congr_left fun e he => by simp [FreshEntry.joinClaim, h e he]
  simp [hkeep, FreshEntry.joinClaim]

/-- Settles O18: where the arbiter has nothing to do the entry waits; else it alone joins the claim that begins. -/
theorem sampleTaken : Obligations.SampleTaken := by
  unfold Obligations.SampleTaken
  intro s p tag channel sampleTag n hs hn ht hoff hused hport hfull
  rw [exec_sample_taken hs hn ht (State.sampleRefusal_eq_none hoff hused hport hfull)]
  have htook : ((s.took p).setFresh (s.fresh ++ [⟨p, sampleTag, n, .waiting⟩])).commitWaiting = s.commitWaiting :=
    s.took_commitWaiting p
  refine ⟨fun hwaits => ?_, fun hu hpos hlease hnone => ?_⟩
  · have hstill : ((s.took p).setFresh (s.fresh ++ [⟨p, sampleTag, n, .waiting⟩])).consult =
        (s.took p).setFresh (s.fresh ++ [⟨p, sampleTag, n, .waiting⟩]) :=
      hwaits.elim (fun hu => State.consult_of_measuring hu) fun ⟨hpos, hl⟩ =>
        State.consult_of_commitWaiting (htook.trans (s.commitWaiting_iff.2 hl)) hpos
    rw [hstill]
    rfl
  · have hw := htook.trans (State.commitWaiting_eq_false fun ⟨h, st, d, hl⟩ => hlease h st d hl)
    have hold : ((s.took p).setFresh (s.fresh ++ [⟨p, sampleTag, n, .waiting⟩])).oldestWaiting =
        some ⟨p, sampleTag, n, .waiting⟩ := find_waiting hnone rfl
    have hbegins : ((s.took p).setFresh (s.fresh ++ [⟨p, sampleTag, n, .waiting⟩])).consult = _ :=
      State.consult_of_oldest hu hw hold
    rw [hbegins, State.beginFreshClaim_eq]
    simp only [State.setFresh_fresh, map_joinClaim_new hnone]
    rfl

/-- COMMIT as the holder's port finds it (08 R147). -/
theorem exec_commit_held {s : State} {p : Port} {tag : Byte} {staging : Configuration} {dirty : Bool} {expiry : Nat}
    (hs : s.serves p) (hl : s.lease = .held p staging dirty expiry) :
    exec (.commit p tag) s = .next
      ((s.took p).commitRequest.1.holding p (s.took p).commitRequest.2.status tag (s.took p).commitRequest.2.payload) :=
  State.request_holder ⟨hs, staging, dirty, expiry, hl⟩

/-- Settles O31, an outcome each. -/
theorem commitRequest : Obligations.CommitRequest := by
  unfold Obligations.CommitRequest
  intro s p tag staging dirty expiry hs hl
  rw [exec_commit_held hs hl]
  have htook : (s.took p).lease = .held p staging dirty (s.now + 4000 * (100 * s.config.hub.leaseSteps)) := by
    simp [State.took, State.leaseAfter, hl]
  refine ⟨fun hd => ?_, fun item constraint hd hv => ?_, fun hd hv hidle => ?_⟩
  · subst hd
    simp [State.commitRequest, htook, Reply.plain]
  · subst hd
    simp [State.commitRequest, htook, hv]
  · subst hd
    have hconsult : ({ s with lease := .committing (some p) staging true } : State).consult =
        { s with lease := .committing (some p) staging true } :=
      hidle.elim (fun hu => State.consult_of_measuring hu) fun hpos => State.consult_of_commitWaiting rfl hpos
    simp only [State.commitRequest, htook, hv]
    exact congrArg (fun t : State => Host.Outcome.next (t.holding p .accepted tag [s.epoch + 1])) hconsult

end Sys2Proof.Machine
end

section
/-! PROOFS. What waits for the load's completion (09 R159), and HALT, RESUME and RESTART (01 R15, R16; 03 R45; 08 R154). -/

namespace Sys2Proof.Machine

/-! ### Before the load completes -/

/-- Before the load completes a request answers nothing and leaves the hub as it is (09 R159). -/
theorem State.request_silent {s : State} (hp : s.phase ≠ .running) (p : Port) (tag : Byte) (g : Gates)
    (block : State → State × Reply) : s.request p tag g block = .next s := by
  unfold State.request
  split
  · rfl
  · rfl
  · rename_i h; exact absurd h hp

/-- Before the load completes nothing that is timed happens (09 R159). -/
theorem State.whileRunning_silent {s : State} (hp : s.phase ≠ .running) (f : State → State) :
    s.whileRunning f = .next s := by
  unfold State.whileRunning
  split
  · rfl
  · rfl
  · rename_i h; exact absurd h hp

theorem execTransactionStart_silent {s : State} (hp : s.phase ≠ .running) (p : Port) (address : BitVec 7)
    (direction : Direction) (written : List Byte) : execTransactionStart p address direction written s = .next s := by
  unfold execTransactionStart
  split
  · rfl
  · rfl
  · rename_i h; exact absurd h hp

theorem execTransactionEnd_silent {s : State} (hp : s.phase ≠ .running) (p : Port) :
    execTransactionEnd p s = .next s := by
  unfold execTransactionEnd
  split
  · rfl
  · rfl
  · rename_i h; exact absurd h hp

/-- Settles O3: a request, a transaction and an event of the running hub are each behind a gate that is shut before the
load completes. -/
theorem silentUntilLoaded : Obligations.SilentUntilLoaded := by
  unfold Obligations.SilentUntilLoaded
  intro c s hp hlow hgood hpower hline hload hend
  cases c <;> simp only [exec]
  case supplyLow => exact absurd rfl hlow
  case supplyGood => exact absurd rfl hgood
  case powerReset => exact absurd rfl hpower
  case lineReset => exact absurd rfl hline
  case startUpLoadComplete => exact absurd rfl hload
  case resetEnd straps => exact absurd rfl (hend straps)
  case transactionStart p address direction written => exact execTransactionStart_silent hp p address direction written
  case transactionEnd p => exact execTransactionEnd_silent hp p
  case transportRefusal | measurementComplete | sweepTick | commitPoint | holdLimitExpiry | discardTimerExpiry |
      leaseTimerExpiry | restartDelayExpiry | erasingEnd | programmingEnd | verifyingEnd | pulseEnd =>
    exact State.whileRunning_silent hp _
  all_goals exact State.request_silent hp _ _ _ _

/-! ### HALT, RESUME and RESTART -/

/-- The timer that HALT pauses, in ticks (03 R45, R47). -/
theorem HoldTimer.pause_eq (now : Nat) (t : HoldTimer) : t.pause now =
    match t with
    | .running expiry => .paused (if expiry ≤ now then 4000 else expiry - now)
    | .paused left => .paused left
    | .stopped => .stopped := by
  cases t <;> rfl

/-- The timer that RESUME resumes (03 R45). -/
theorem HoldTimer.resume_eq (now : Nat) (t : HoldTimer) : t.resume now =
    match t with
    | .running expiry => .running expiry
    | .paused left => .running (now + left)
    | .stopped => .stopped := by
  cases t <;> rfl

theorem State.halted_of_halted (s : State) (h : s.sequencer.run = .halted) : s.halted = s := by
  simp [State.halted, h]

theorem State.resumed_of_run (s : State) (h : s.sequencer.run = .run) : s.resumed = s := by
  simp [State.resumed, h]

/-- Settles O24: in each run state the one of HALT and RESUME that would set the other changes nothing. -/
theorem haltResumeRestart : Obligations.HaltResumeRestart := by
  unfold Obligations.HaltResumeRestart
  intro s p tag hs
  have hhalt : exec (.halt p tag) s = .next ((s.took p).halted.holding p .ok tag []) := by
    simp only [exec]; exact State.request_holder hs
  have hresume : exec (.resume p tag) s = .next ((s.took p).resumed.holding p .ok tag []) := by
    simp only [exec]; exact State.request_holder hs
  refine ⟨fun hrun => ⟨?_, ?_⟩, fun hrun => ⟨?_, ?_⟩, fun hstore => ?_, fun hstore => ?_⟩
  · have hrun' : (s.took p).sequencer.run = .run := hrun
    rw [hhalt]
    unfold State.halted
    rw [hrun']
    simp only [State.mapHoldTimers, HoldTimer.pause_eq]
    rfl
  · rw [hresume, (s.took p).resumed_of_run hrun]
  · rw [hhalt, (s.took p).halted_of_halted hrun]
  · have hrun' : (s.took p).sequencer.run = .halted := hrun
    rw [hresume]
    unfold State.resumed
    rw [hrun']
    simp only [State.mapHoldTimers, HoldTimer.resume_eq]
    rfl
  · simp only [exec, execRestart]
    rw [State.request_holder hs, show (s.took p).images.store = none from hstore]
    rfl
  · obtain ⟨r, hr⟩ := Option.ne_none_iff_exists'.1 hstore
    simp only [exec, execRestart]
    rw [State.request_holder hs, show (s.took p).images.store = some r from hr]
    rfl

end Sys2Proof.Machine
end

section
/-! PROOFS. Sweep ticks and the completion of measurements: the sequencer's moves said case by case (01 R3, R6, R7, R9 to
R14, R18 to R20; 02 R23; 07 R118 to R120). -/

namespace Sys2Proof.Machine

/-! ### The scan list (01 R11, R12) -/

/-- A number of the scan list names a channel whose tracker is OFF. -/
def State.listedOff (s : State) (k : Nat) : Prop := ∃ n : ChannelId, n.val = k ∧ (s.trackers.get n).state = .off

theorem channel?_eq_some {k : Nat} {n : ChannelId} (h : channel? k = some n) : n.val = k := by
  unfold channel? at h
  split_ifs at h with hk
  cases h; rfl

theorem State.listedOff_val {s : State} {n : ChannelId} (h : s.listedOff n.val) : (s.trackers.get n).state = .off := by
  obtain ⟨j, hj, hoff⟩ := h
  rwa [Fin.ext hj] at hoff

/-- No channel is live in a list whose every number is of a channel that is OFF. -/
theorem State.firstLive_eq_none (s : State) {l : List Nat} (h : ∀ k ∈ l, s.listedOff k) : s.firstLive l = none := by
  simp only [State.firstLive, List.find?_eq_none, List.mem_filterMap, decide_eq_true_eq, not_not]
  rintro n ⟨k, hk, hn⟩
  have hval := channel?_eq_some hn
  subst hval
  exact State.listedOff_val (h _ hk)

/-- The first live channel comes after numbers of channels that are OFF. -/
theorem State.firstLive_eq_some (s : State) {before after : List Nat} {n : ChannelId}
    (h : ∀ k ∈ before, s.listedOff k) (hn : ¬s.listedOff n.val) : s.firstLive (before ++ n.val :: after) = some n := by
  have hnone : (before.filterMap channel?).find? (fun n => decide ((s.trackers.get n).state ≠ .off)) = none :=
    s.firstLive_eq_none h
  have hlive : (s.trackers.get n).state ≠ .off := fun hoff => hn ⟨n, rfl, hoff⟩
  rw [State.firstLive, List.filterMap_append, List.find?_append, hnone, Option.none_or,
    List.filterMap_cons_some (channel?_of_val rfl)]
  simp [hlive]

/-- The part of the list after a position that stands in it once before (01 R12). -/
theorem listAfter_append {before after : List Nat} {n : ChannelId} (h : n.val ∉ before) :
    listAfter (before ++ n.val :: after) n = after := by
  have hpass : ∀ k ∈ before, decide (k ≠ n.val) = true := fun k hk => by
    simpa using fun e : k = n.val => h (e ▸ hk)
  unfold listAfter
  rw [List.dropWhile_append_of_pos hpass]
  simp

/-! ### SWEEP_TICK (01 R9 to R11, R20) -/

theorem saturatingIncrement_eq (n : BitVec 16) : saturatingIncrement n = if n = 0xFFFF then 0xFFFF else n + 1 := by
  unfold saturatingIncrement
  split
  · assumption
  · rfl

theorem State.beginSweep_some {s : State} {n : ChannelId} (h : s.firstLive s.config.scanList = some n) :
    s.beginSweep =
      ({ s with
          sequencer := { s.sequencer with number := s.sequencer.number + 1, position := some n } } : State).consult := by
  let t := s.setSequencer { s.sequencer with number := s.sequencer.number + 1 }
  have h' : t.firstLive t.config.scanList = some n := h
  simp only [State.beginSweep, t] at h' ⊢
  rw [h']
  rfl

theorem State.beginSweep_none {s : State} (h : s.firstLive s.config.scanList = none)
    (hpos : s.sequencer.position = none) :
    s.beginSweep =
      ({ s with sequencer := { s.sequencer with number := s.sequencer.number + 1 } } : State).evaluateTerms := by
  let t := s.setSequencer { s.sequencer with number := s.sequencer.number + 1 }
  have h' : t.firstLive t.config.scanList = none := h
  simp only [State.beginSweep, t] at h' ⊢
  rw [h']
  have hnone : ({ s.sequencer with number := s.sequencer.number + 1, position := none } : Sequencer) =
      { s.sequencer with number := s.sequencer.number + 1 } := by simp [hpos]
  show (s.setSequencer { s.sequencer with number := s.sequencer.number + 1, position := none }).evaluateTerms = _
  rw [hnone]
  rfl

theorem State.tickEffect_halted (s : State) (h : s.sequencer.run = .halted) : s.tickEffect = s := by
  simp [State.tickEffect, h]

theorem State.tickEffect_commitWaiting (s : State) (hpos : s.sequencer.position = none) (hw : s.commitWaiting = true) :
    s.tickEffect = s := by
  cases hr : s.sequencer.run <;> simp [State.tickEffect, hr, hpos, hw]

theorem State.tickEffect_overrun (s : State) (hr : s.sequencer.run = .run) (hpos : s.sequencer.position ≠ none) :
    s.tickEffect = s.setCounters
      { s.status.counters with sweepOverruns := saturatingIncrement s.status.counters.sweepOverruns } := by
  obtain ⟨n, hn⟩ := Option.ne_none_iff_exists'.1 hpos
  simp [State.tickEffect, hr, hn]

theorem State.tickEffect_sweep (s : State) (hr : s.sequencer.run = .run) (hpos : s.sequencer.position = none)
    (hw : s.commitWaiting = false) : s.tickEffect = s.beginSweep := by
  simp [State.tickEffect, hr, hpos, hw]

/-- The hub as a tick that is due finds it: the timebase at its moment, the following tick set (01 R9). -/
def State.atTick (s : State) (due : Nat) : State :=
  { s with
    now := max s.now due
    sequencer := { s.sequencer with nextTick := some (max s.now due + 4000 * s.config.hub.sweepPeriodMs) } }

theorem exec_sweepTick {s : State} {due : Nat} (hp : s.phase = .running) (hd : s.sequencer.nextTick = some due) :
    exec .sweepTick s = .next (s.atTick due).tickEffect := by
  simp only [exec, execSweepTick]
  rw [State.whileRunning_running hp, hd]
  rfl

/-- Settles O44: a row of the table of ticks each, and the two ways in which a sweep begins. -/
theorem sweepTick : Obligations.SweepTick := by
  unfold Obligations.SweepTick
  intro s hp
  refine ⟨fun hstopped => ?_, fun due hd => ?_⟩
  · simp only [exec, execSweepTick]
    rw [State.whileRunning_running hp, hstopped]
  intro now sequencer passed waits isOff
  rw [exec_sweepTick hp hd]
  refine ⟨fun hr => ?_, fun hr hpos => ?_, fun hr hpos hw => ?_, fun hr hpos hw => ⟨?_, ?_⟩⟩
  · rw [(s.atTick due).tickEffect_halted hr]; rfl
  · rw [(s.atTick due).tickEffect_overrun hr hpos, saturatingIncrement_eq]; rfl
  · rw [(s.atTick due).tickEffect_commitWaiting hpos (s.commitWaiting_iff.2 hw)]; rfl
  · intro before n after hlist hbefore hn
    have hfirst : (s.atTick due).firstLive s.config.scanList = some n := by
      rw [hlist]; exact (s.atTick due).firstLive_eq_some hbefore hn
    rw [(s.atTick due).tickEffect_sweep hr hpos (State.commitWaiting_eq_false hw),
      State.beginSweep_some hfirst]
    rfl
  · intro hall
    have hfirst : (s.atTick due).firstLive s.config.scanList = none := (s.atTick due).firstLive_eq_none hall
    rw [(s.atTick due).tickEffect_sweep hr hpos (State.commitWaiting_eq_false hw),
      State.beginSweep_none hfirst hpos]
    rfl

/-! ### MEASUREMENT_COMPLETE -/

/-- The completion of the measurement in progress, with a count of the channel's range, at its end time (01 R3). -/
theorem exec_measurementComplete {s : State} {m : Measurement} {raw : BitVec 16} (hp : s.phase = .running)
    (hu : s.unit = some m) (hraw : raw.toNat < 2 ^ (s.config.channels.get m.channel).resolution) :
    exec (.measurementComplete raw) s = .next
      (if (s.config.channels.get m.channel).quiet = true ∧ m.disturbed = true then (s.advanceTo m.endTime).disturbedEnd m
       else (s.advanceTo m.endTime).countedEnd m raw.toNat) := by
  have hraw' : raw.toNat < 2 ^ (s.profile m.channel).resolution := hraw
  simp only [exec, execMeasurementComplete]
  rw [State.whileRunning_running hp, hu]
  simp only [hraw', if_true, Bool.and_eq_true]
  rfl

/-- The repeat of a disturbed measurement: the same claim again, from now on (01 R6). -/
theorem State.repeatMeasurement_eq (s : State) (m : Measurement) :
    s.repeatMeasurement m = { s with unit := some (s.claimNow m.kind m.channel .repeated) } :=
  s.beginMeasurement_eq _ _ _

/-! ### The completion of a claim of kind FRESH (01 R6, R7; 07 R118 to R120) -/

theorem State.someMeasuring_iff (s : State) (n : ChannelId) :
    s.someMeasuring n = true ↔ ∃ e ∈ s.fresh, e.channel = n ∧ e.state = .measuring := by
  simp [State.someMeasuring]

theorem State.disturbedEnd_fresh_first {s : State} {m : Measurement} (hk : m.kind = .fresh) (hr : m.retry = .first) :
    s.disturbedEnd m = if s.someMeasuring m.channel then s.repeatMeasurement m else s.endClaim := by
  simp [State.disturbedEnd, hk, hr]

theorem State.disturbedEnd_fresh_repeated {s : State} {m : Measurement} (hk : m.kind = .fresh)
    (hr : m.retry = .repeated) : s.disturbedEnd m = (s.completeFresh m.channel .disturbed).endClaim := by
  simp [State.disturbedEnd, hk, hr]

/-- A count at either end of its range is out of it (01 R3; 07 R118). -/
theorem State.countedEnd_fresh_out (s : State) {m : Measurement} {raw : Nat} (hk : m.kind = .fresh)
    (h : raw = 0 ∨ raw + 1 = 2 ^ (s.profile m.channel).resolution) :
    s.countedEnd m raw = (s.completeFresh m.channel (.outOfRange raw)).endClaim := by
  have hout : (decide (raw ≠ 0) && decide (raw + 1 ≠ 2 ^ (s.profile m.channel).resolution)) = false := by
    simpa [imp_iff_not_or] using h
  simp only [State.countedEnd, hk, State.freshOutcome, hout]
  rfl

theorem State.countedEnd_fresh_in (s : State) {m : Measurement} {raw : Nat} (hk : m.kind = .fresh) (h0 : raw ≠ 0)
    (h1 : raw + 1 ≠ 2 ^ (s.profile m.channel).resolution) :
    s.countedEnd m raw = (s.completeFresh m.channel
      (.ok raw (s.trackers.get m.channel).baseline (s.trackers.get m.channel).state)).endClaim := by
  simp [State.countedEnd, hk, State.freshOutcome, h0, h1]

/-- Settles O46: the disturbed ends by the retry and the entries that remain, the others by the count. -/
theorem freshMeasurement : Obligations.FreshMeasurement := by
  unfold Obligations.FreshMeasurement
  intro s m raw hp hu hk hraw n f now disturbed ends completed remains
  have hexec := exec_measurementComplete hp hu hraw
  have hremains := (s.advanceTo m.endTime).someMeasuring_iff m.channel
  have hquiet (hd : disturbed) : exec (.measurementComplete raw) s = .next ((s.advanceTo m.endTime).disturbedEnd m) := by
    rw [hexec, if_pos hd]
  have hcount (hd : ¬disturbed) :
      exec (.measurementComplete raw) s = .next ((s.advanceTo m.endTime).countedEnd m raw.toNat) := by
    rw [hexec, if_neg hd]
  refine ⟨fun hd hr hrem => ?_, fun hd hr hrem => ?_, fun hd hr => ?_, fun hd hrange => ?_, fun hd h0 h1 => ?_⟩
  · refine ⟨s.transactionInProgress, s.transactionInProgress_iff, ?_⟩
    rw [hquiet hd, State.disturbedEnd_fresh_first hk hr, if_pos (hremains.2 hrem), State.repeatMeasurement_eq]
    rfl
  · refine (hquiet hd).trans ?_
    rw [State.disturbedEnd_fresh_first hk hr, if_neg fun h => hrem (hremains.1 h)]
    rfl
  · refine (hquiet hd).trans ?_
    rw [State.disturbedEnd_fresh_repeated hk hr]
    rfl
  · refine (hcount hd).trans ?_
    rw [(s.advanceTo m.endTime).countedEnd_fresh_out hk hrange]
    rfl
  · refine (hcount hd).trans ?_
    rw [(s.advanceTo m.endTime).countedEnd_fresh_in hk h0 h1]
    rfl

/-! ### The completion of a claim of kind SWEEP (01 R6, R7, R12 to R14, R20; 02 R23, R31) -/

/-- A claim of a sweep that HALT abandoned, or of an earlier one, is declined (01 R12). -/
theorem State.sequencerActs_declines {s : State} {claim : BitVec 32}
    (h : s.sequencer.position = none ∨ s.sequencer.number ≠ claim) : s.sequencerActs claim = s := by
  unfold State.sequencerActs
  split
  · rfl
  · rename_i n hn
    exact if_neg (h.resolve_left (by simp [hn]))

/-- A claim of the sweep in progress seeks the next live channel of the list (01 R12). -/
theorem State.sequencerActs_seeks {s : State} {claim : BitVec 32} {n : ChannelId} {before after : List Nat}
    (hpos : s.sequencer.position = some n) (hnum : s.sequencer.number = claim)
    (hlist : s.config.scanList = before ++ n.val :: after) (hn : n.val ∉ before) :
    s.sequencerActs claim = s.placeOrClose (s.firstLive after) := by
  simp [State.sequencerActs, hpos, hnum, hlist, listAfter_append hn]

/-- One more out-of-range measurement, unless the tracker is OFF (02 R31, R33). -/
theorem State.countOutOfRange_eq (s : State) (n : ChannelId) : s.countOutOfRange n =
    { s with
      status :=
        { s.status with
          counters :=
            { s.status.counters with
              outOfRange :=
                if (s.trackers.get n).state = .off ∨ s.status.counters.outOfRange = 0xFFFF then
                  s.status.counters.outOfRange
                else s.status.counters.outOfRange + 1 } } } := by
  unfold State.countOutOfRange
  split
  · rename_i h; simp [h]
  all_goals
    rename_i h
    simp [h, State.setCounters, State.setStatus, saturatingIncrement]

/-- The sweep's claim after its measurement: what the tracker makes of the count stands before its event is offered. -/
theorem State.trackerMoves_eq (s : State) (n : ChannelId) (x : Tracker × Option Report) : s.trackerMoves n x =
    match x.2 with
    | none => { s with trackers := setAt s.trackers n x.1 }
    | some r => ({ s with trackers := setAt s.trackers n x.1 } : State).offerAll r := rfl

theorem State.disturbedEnd_sweep_first {s : State} {m : Measurement} {claim : BitVec 32} (hk : m.kind = .sweep claim)
    (hr : m.retry = .first) : s.disturbedEnd m = s.repeatMeasurement m := by
  simp [State.disturbedEnd, hk, hr]

theorem State.disturbedEnd_sweep_repeated {s : State} {m : Measurement} {claim : BitVec 32} (hk : m.kind = .sweep claim)
    (hr : m.retry = .repeated) : s.disturbedEnd m = (s.countSkip.sequencerActs claim).endClaim := by
  simp [State.disturbedEnd, hk, hr]

/-- The record and report that a count makes of its channel's tracker (02 R23). -/
def State.trackerMove (s : State) (n : ChannelId) (raw : Nat) (inRange : Bool) : Tracker × Option Report :=
  if inRange then (s.trackers.get n).takeInRange n (s.profile n) s.moment raw else (s.trackers.get n).takeOutOfRange n

/-- The hub when a count has reached the tracker of its channel, before its event is offered (02 R23, R31, R33). -/
def State.trackerTaken (s : State) (n : ChannelId) (raw : Nat) (inRange : Bool) : State :=
  { s with
    trackers := setAt s.trackers n (s.trackerMove n raw inRange).1
    status :=
      { s.status with
        counters :=
          { s.status.counters with
            outOfRange :=
              if inRange = true ∨ (s.trackers.get n).state = .off ∨ s.status.counters.outOfRange = 0xFFFF then
                s.status.counters.outOfRange
              else s.status.counters.outOfRange + 1 } } }

theorem State.trackerTakes_eq (s : State) (n : ChannelId) (raw : Nat) (inRange : Bool) : s.trackerTakes n raw inRange =
    match (s.trackerMove n raw inRange).2 with
    | none => s.trackerTaken n raw inRange
    | some r => (s.trackerTaken n raw inRange).offerAll r := by
  cases inRange
  · simp only [State.trackerTakes, State.trackerTaken, State.trackerMove, State.countOutOfRange_eq, State.trackerMoves_eq,
      if_false, Bool.false_eq_true, false_or]
  · simp only [State.trackerTakes, State.trackerTaken, State.trackerMove, State.trackerMoves_eq, if_true, true_or]

theorem State.countedEnd_sweep {s : State} {m : Measurement} {claim : BitVec 32} {raw : Nat} (hk : m.kind = .sweep claim) :
    s.countedEnd m raw = ((s.trackerTakes m.channel raw
      (decide (raw ≠ 0) && decide (raw + 1 ≠ 2 ^ (s.profile m.channel).resolution))).sequencerActs claim).endClaim := by
  simp [State.countedEnd, hk]

theorem State.endClaim_eq (s : State) : s.endClaim = ({ s with unit := none } : State).consult := rfl

/-- The end of a sweep's claim, whatever its outcome: the sequencer declines it, moves the position on, or closes the sweep
(01 R12 to R14). -/
theorem State.sweepClaim_ends {s t : State} (claim : BitVec 32) (hseq : t.sequencer = s.sequencer)
    (hconfig : t.config = s.config) :
    ((s.sequencer.position = none ∨ s.sequencer.number ≠ claim) →
      (t.sequencerActs claim).endClaim = ({ t with unit := none } : State).consult) ∧
    ∀ (at' : ChannelId) before after, s.sequencer.position = some at' → s.sequencer.number = claim →
      s.config.scanList = before ++ at'.val :: after → at'.val ∉ before →
      (∀ skipped (j : ChannelId) rest, after = skipped ++ j.val :: rest → (∀ k ∈ skipped, t.listedOff k) →
        ¬t.listedOff j.val →
        (t.sequencerActs claim).endClaim =
          ({ t with sequencer := { s.sequencer with position := some j }, unit := none } : State).consult) ∧
      ((∀ k ∈ after, t.listedOff k) →
        (t.sequencerActs claim).endClaim =
          ({ ({ t with sequencer := { s.sequencer with position := none } } : State).evaluateTerms with
              unit := none } : State).consult) := by
  rw [← hseq, ← hconfig]
  refine ⟨fun h => ?_, fun at' before after hpos hnum hlist hat =>
    ⟨fun skipped j rest hafter hskip hj => ?_, fun h => ?_⟩⟩
  · rw [State.sequencerActs_declines h, State.endClaim_eq]
  · rw [State.sequencerActs_seeks hpos hnum hlist hat, hafter, t.firstLive_eq_some hskip hj]
    rfl
  · rw [State.sequencerActs_seeks hpos hnum hlist hat, t.firstLive_eq_none h]
    rfl

/-- Settles O45: a repeat, or the outcome of the claim (a skip, or the count taken by the tracker), at which the sequencer
acts. -/
theorem sweepMeasurement : Obligations.SweepMeasurement := by
  unfold Obligations.SweepMeasurement
  intro s m claim raw hp hu hk hraw n f now inRange disturbed moved outcome ends isOff
  have hexec := exec_measurementComplete hp hu hraw
  refine ⟨fun hd hr => ?_, fun hend => ?_⟩
  · refine ⟨s.transactionInProgress, s.transactionInProgress_iff, ?_⟩
    rw [hexec, if_pos hd, State.disturbedEnd_sweep_first hk hr, State.repeatMeasurement_eq]
    rfl
  · have hskip (hd : disturbed) : outcome = (s.advanceTo m.endTime).countSkip := by
      simp only [outcome, if_pos hd, ← saturatingIncrement_eq]
      rfl
    have htaken (hd : ¬disturbed) : outcome = (s.advanceTo m.endTime).trackerTakes n raw.toNat
        (decide (raw.toNat ≠ 0) && decide (raw.toNat + 1 ≠ 2 ^ f.resolution)) := by
      rw [State.trackerTakes_eq]
      by_cases hin : inRange
      · have hb : (decide (raw.toNat ≠ 0) && decide (raw.toNat + 1 ≠ 2 ^ f.resolution)) = true := by simpa using hin
        simp only [outcome, if_neg hd, moved, if_pos hin, hb, hin, true_or]
        rfl
      · have hb : (decide (raw.toNat ≠ 0) && decide (raw.toNat + 1 ≠ 2 ^ f.resolution)) = false := by
          simpa [inRange] using hin
        simp only [outcome, if_neg hd, moved, if_neg hin, hb, hin, State.trackerTaken, Bool.false_eq_true, false_or]
        rfl
    have houtcome : exec (.measurementComplete raw) s = .next (outcome.sequencerActs claim).endClaim := by
      rw [hexec]
      by_cases hd : disturbed
      · rw [if_pos hd, State.disturbedEnd_sweep_repeated hk (hend.resolve_left (not_not.2 hd)), hskip hd]
      · rw [if_neg hd, State.countedEnd_sweep hk, htaken hd]
        rfl
    have hkept : outcome.sequencer = s.sequencer ∧ outcome.active = s.active := by
      by_cases hd : disturbed
      · rw [hskip hd]; exact ⟨rfl, rfl⟩
      · rw [htaken hd]; simp
    have hconfig : outcome.config = s.config := by unfold State.config; rw [hkept.2]
    obtain ⟨hdeclines, hseeks⟩ := State.sweepClaim_ends claim hkept.1 hconfig
    refine ⟨fun h => houtcome.trans (congrArg _ (hdeclines h)), fun at' before after hpos hnum hlist hat => ?_⟩
    obtain ⟨hmoves, hcloses⟩ := hseeks at' before after hpos hnum hlist hat
    exact ⟨fun skipped j rest hafter hskipped hj =>
        houtcome.trans (congrArg _ (hmoves skipped j rest hafter hskipped hj)),
      fun h => houtcome.trans (congrArg _ (hcloses h))⟩

end Sys2Proof.Machine
end

section
/-! PROOFS. Resets, the start-up load and its completion (09 R156, R158, R159, R161, R167; 11 R185, R186). -/

namespace Sys2Proof.Machine

/-! ### A reset begins -/

/-- A reset leaves no store in progress and no result (09 R161). -/
theorem ImageStore.afterReset_idle (im : ImageStore) :
    im.afterReset.store = none ∧ im.afterReset.lastResult = none := by
  unfold ImageStore.afterReset
  split <;> exact ⟨rfl, rfl⟩

theorem ImageStore.afterReset_slot {im : ImageStore} (h : im.store = none) (id : SlotId) :
    im.afterReset.slot id = im.slot id := by
  unfold ImageStore.afterReset
  rw [h]
  cases id <;> rfl

/-- The target of a store that is cut short has no check, and the other slot is left alone (09 R165, R167). -/
theorem ImageStore.cutShort_slots (im : ImageStore) (r : StoreRecord) :
    ((im.cutShort r).slot r.target).check = none ∧ (im.cutShort r).slot r.target.other = im.slot r.target.other := by
  constructor
  · show ((im.setSlot r.target _).slot r.target).check = none
    rw [ImageStore.slot_setSlot_same]
    cases r.phase <;> rfl
  · exact ImageStore.slot_setSlot_other im r.target _

theorem ImageStore.afterReset_cut {im : ImageStore} {r : StoreRecord} (h : im.store = some r) :
    (im.afterReset.slot r.target).check = none ∧ im.afterReset.slot r.target.other = im.slot r.target.other := by
  have hslot : ∀ id, im.afterReset.slot id = (im.cutShort r).slot id := fun id => by
    unfold ImageStore.afterReset
    rw [h]
    cases id <;> rfl
  rw [hslot, hslot]
  exact im.cutShort_slots r

/-- A port's delivery record when a reset begins: CLOSED, its line released at the polarity it had (05 R77, R81, R85). -/
theorem State.beginReset_delivery (s : State) (cause : ResetCause) (p : Port) :
    (s.beginReset cause).delivery.get p = Delivery.closed (s.delivery.get p).line.released := by
  cases p <;> rfl

theorem State.beginReset_ports (s : State) (cause : ResetCause) (p : Port) :
    (s.beginReset cause).ports.get p = (s.ports.get p).afterReset := by
  cases p <;> rfl

/-- Settles O51: both commands begin the reset, each with its cause. -/
theorem resetBegins : Obligations.ResetBegins := by
  unfold Obligations.ResetBegins
  intro s
  refine ⟨s.beginReset .power, rfl, rfl, rfl, rfl, rfl, rfl, ?_, ?_, s.beginReset_delivery .power, rfl, rfl, rfl, rfl, rfl,
    s.images.afterReset_idle.1, s.images.afterReset_idle.2, ?_, ?_, s.beginReset_ports .power, rfl, rfl, rfl⟩
  · exact fun n => get_ofFn _ n
  · exact fun k => get_ofFn _ k
  · exact fun hstore => ImageStore.afterReset_slot hstore
  · exact fun r hstore => ImageStore.afterReset_cut hstore

/-! ### The load and its completion -/

theorem State.beginLoad_ports (s : State) (straps : Straps) (p : Port) : (s.beginLoad straps).ports.get p =
    { s.ports.get p with address := if straps.get p = true then 0x3B else 0x3A } := by
  cases p <;> rfl

theorem exec_resetEnd_inReset {s : State} (straps : Straps) (h : s.phase = .inReset) :
    exec (.resetEnd straps) s = .next (s.beginLoad straps) := by
  simp only [exec, execResetEnd]
  rw [h]

theorem exec_resetEnd_otherwise {s : State} (straps : Straps) (h : s.phase ≠ .inReset) :
    exec (.resetEnd straps) s = .next s := by
  simp only [exec, execResetEnd]
  split
  · rfl
  · rfl
  · rename_i hp; exact absurd hp h

theorem exec_restartDelayExpiry {s : State} (straps : Straps) {expiry : Nat} (hp : s.phase = .running)
    (hd : s.restartDelay = some expiry) : exec (.restartDelayExpiry straps) s =
      .next (((s.advanceTo expiry).beginReset .restart).beginLoad straps) := by
  simp only [exec, execRestartDelayExpiry]
  rw [State.whileRunning_running hp, hd]

theorem exec_restartDelayExpiry_none {s : State} (straps : Straps) (hd : s.restartDelay = none) :
    exec (.restartDelayExpiry straps) s = .next s := by
  by_cases hp : s.phase = .running
  · simp only [exec, execRestartDelayExpiry]
    rw [State.whileRunning_running hp, hd]
  · simp only [exec]
    exact State.whileRunning_silent hp _

theorem exec_startUpLoadComplete {s : State} {due : Nat} (h : s.phase = .loading due) :
    exec .startUpLoadComplete s =
      .next ((s.advanceTo due).startUp s.images.startUp.1 s.images.startUp.2) := by
  simp only [exec, execStartUpLoadComplete]
  rw [h]
  rfl

theorem exec_startUpLoadComplete_otherwise {s : State} (h : ∀ due, s.phase ≠ .loading due) :
    exec .startUpLoadComplete s = .next s := by
  simp only [exec, execStartUpLoadComplete]
  split
  · rfl
  · rfl
  · rename_i due hp; exact absurd hp (h due)

/-- The configuration of the newest valid slot and the slot as its source, else the factory's (09 R156, R158). -/
theorem ImageStore.startUp_cases (im : ImageStore) :
    (im.validContent .slot0 = none ∧ im.validContent .slot1 = none ∧ im.startUp.1 = factoryConfiguration ∧
      im.startUp.2 = .factory) ∨
    (im.validContent .slot0 = some im.startUp.1 ∧
      (im.validContent .slot1 = none ∨ im.slot1.generation.toNat ≤ im.slot0.generation.toNat) ∧
      im.startUp.2 = .slot0) ∨
    (im.validContent .slot1 = some im.startUp.1 ∧
      (im.validContent .slot0 = none ∨ im.slot0.generation.toNat < im.slot1.generation.toNat) ∧
      im.startUp.2 = .slot1) := by
  unfold ImageStore.startUp ImageStore.newest
  rcases im.validContent .slot0 with _ | c0 <;> rcases im.validContent .slot1 with _ | c1
  · exact .inl ⟨rfl, rfl, rfl, rfl⟩
  · exact .inr (.inr ⟨rfl, .inl rfl, rfl⟩)
  · exact .inr (.inl ⟨rfl, .inl rfl, rfl⟩)
  · by_cases h : im.slot0.generation.toNat < im.slot1.generation.toNat
    · exact .inr (.inr (by simp [h]))
    · exact .inr (.inl (by simp [h, Nat.le_of_not_lt h]))

theorem State.startUp_delivery (s : State) (cfg : Configuration) (source : ConfigSource) (p : Port) :
    (s.startUp cfg source).delivery.get p =
      { s.delivery.get p with line := .drivenAt (cfg.ports.get p).polarity } := by
  cases p <;> rfl

/-- The schedule starts by the start mode (01 R9, R17). -/
theorem State.startUp_sequencer (s : State) (cfg : Configuration) (source : ConfigSource) :
    (s.startUp cfg source).sequencer =
      { s.sequencer with
        run := cfg.hub.startMode
        nextTick := if cfg.hub.startMode = .run then some (s.now + 4000 * cfg.hub.sweepPeriodMs) else none } := by
  unfold State.startUp
  cases h : cfg.hub.startMode <;> rfl

/-- Settles O52: the end of a reset, of a restart delay and of the load, each where there is one to end and where not. -/
theorem loadCompletes : Obligations.LoadCompletes := by
  unfold Obligations.LoadCompletes
  intro s
  refine ⟨fun straps => ⟨fun h => ?_, exec_resetEnd_otherwise straps, fun expiry hp hd => ?_,
    exec_restartDelayExpiry_none straps⟩, exec_startUpLoadComplete_otherwise, fun due h => ?_⟩
  · exact ⟨s.beginLoad straps, exec_resetEnd_inReset straps h, rfl, s.beginLoad_ports straps⟩
  · exact ⟨(s.advanceTo expiry).beginReset .power, ((s.advanceTo expiry).beginReset .restart).beginLoad straps, rfl, rfl,
      exec_restartDelayExpiry straps hp hd⟩
  · intro valid gen0 gen1
    exact ⟨(s.advanceTo due).startUp s.images.startUp.1 s.images.startUp.2, s.images.startUp.1, s.images.startUp.2,
      exec_startUpLoadComplete h, s.images.startUp_cases, rfl, rfl, rfl, rfl, rfl, State.startUp_sequencer _ _ _,
      fun n => get_ofFn _ n, fun k => get_ofFn _ k, State.startUp_delivery _ _ _, rfl, rfl, rfl, rfl, rfl, rfl, rfl, rfl⟩

end Sys2Proof.Machine
end

section
/-! PROOFS. Transactions on the ports, and what the taking of a request leaves of a port interface (09 R159; 10 R169, R171,
R172). -/

namespace Sys2Proof.Machine

/-! ### What a request leaves of the ports (10 R176) -/

/-- A gate before a block whose effect is none of the ports'. -/
theorem rangeGate_ports {fields : List (Nat × Bool)} {block : State → State × Reply} {s : State}
    (hb : (block s).1.ports = s.ports) : (rangeGate fields block s).1.ports = s.ports := by
  rcases rangeGate_cases fields block s with ⟨_, _, h⟩ | ⟨_, h⟩ <;> rw [h]
  exact hb

theorem State.takeLease_ports (s : State) (p : Port) (preempt : Bool) : (s.takeLease p preempt).1.ports = s.ports := by
  unfold State.takeLease
  split
  · rfl
  · split_ifs
    · rfl
    · exact State.offerTo_ports _ _ _
    · rfl
  · split_ifs <;> rfl

theorem State.commitRequest_ports (s : State) : s.commitRequest.1.ports = s.ports := by
  unfold State.commitRequest
  split
  · rfl
  · rfl
  · split_ifs
    · split
      · rfl
      · exact State.consult_ports _
    · rfl

theorem State.halted_ports (s : State) : s.halted.ports = s.ports := by
  unfold State.halted
  split <;> rfl

theorem State.resumed_ports (s : State) : s.resumed.ports = s.ports := by
  unfold State.resumed
  split <;> rfl

theorem State.storeRequest_ports (s : State) (p : Port) : (s.storeRequest p).1.ports = s.ports := by
  unfold State.storeRequest
  split
  · rfl
  · split_ifs <;> rfl

/-- A request replaces the held response of its port, and leaves every interface as it was otherwise. -/
def SameInterfaces (s t : State) : Prop :=
  ∀ q, (t.ports.get q).indication = (s.ports.get q).indication ∧ (t.ports.get q).address = (s.ports.get q).address

theorem State.answer_interfaces {s t : State} (h : t.ports = s.ports) (p : Port) (tag : Byte) (r : Reply) :
    SameInterfaces s (t.answer p tag r) := by
  intro q
  show ((t.ports.set p _).get q).indication = _ ∧ ((t.ports.set p _).get q).address = _
  rw [PortMap.get_set, h]
  split
  · rename_i e; subst e; exact ⟨rfl, rfl⟩
  · exact ⟨rfl, rfl⟩

theorem State.request_interfaces {s t : State} {p : Port} {tag : Byte} {g : Gates} {block : State → State × Reply}
    (h : s.request p tag g block = .next t) (hb : ∀ s, (block s).1.ports = s.ports) : SameInterfaces s t := by
  rcases State.request_cases h with ⟨_, rfl⟩ | ⟨_, r, _, rfl⟩ | ⟨_, _, rfl⟩
  · exact fun q => ⟨rfl, rfl⟩
  · exact State.answer_interfaces (State.restartLeaseTimer_ports s p) _ _ _
  · exact State.answer_interfaces ((hb _).trans (State.restartLeaseTimer_ports s p)) _ _ _

theorem takeRequest_interfaces {i : Instr} {s t : State} (h : takeRequest i s = .next t) : SameInterfaces s t := by
  cases i <;> simp only [takeRequest] at h
  case openSession | subscribe | readEvents => exact State.request_interfaces h fun s => rangeGate_ports rfl
  case setScanlist | setHub => exact State.request_interfaces h fun s => rangeGate_ports (State.stage_ports _ _)
  case closeSession | releaseLease | readState | readStatus | clearCounters | identify =>
    exact State.request_interfaces h fun s => rfl
  case readTracker | readStaging | readConfig => exact State.request_interfaces h fun s => by split <;> rfl
  case ackEvents =>
    refine State.request_interfaces h fun s => ?_
    split
    · rfl
    · split_ifs <;> rfl
  case sample =>
    refine State.request_interfaces h fun s => ?_
    split
    · rfl
    · split_ifs
      · rfl
      · split
        · rfl
        · exact State.consult_ports _
  case fetch =>
    refine State.request_interfaces h fun s => ?_
    split_ifs
    · rfl
    · split
      · rfl
      · split <;> rfl
  case cancel =>
    refine State.request_interfaces h fun s => ?_
    split_ifs
    · rfl
    · split <;> rfl
  case takeLease =>
    refine State.request_interfaces h fun s => ?_
    split
    · rfl
    · exact State.takeLease_ports _ _ _
  case setChannel | setTerm | setPort =>
    refine State.request_interfaces h fun s => ?_
    split
    · rfl
    · exact rangeGate_ports (State.stage_ports _ _)
  case loadStaging =>
    refine State.request_interfaces h fun s => ?_
    split
    · rfl
    · exact State.stage_ports _ _
    · exact State.stage_ports _ _
    · split
      · rfl
      · exact State.stage_ports _ _
  case commit => exact State.request_interfaces h State.commitRequest_ports
  case halt => exact State.request_interfaces h State.halted_ports
  case resume => exact State.request_interfaces h State.resumed_ports
  case store => exact State.request_interfaces h fun s => s.storeRequest_ports _
  case restart => exact State.request_interfaces h fun s => by split <;> rfl
  all_goals
    cases h
    exact fun q => ⟨rfl, rfl⟩

/-- What `Keeps` says of every property it says of the trivial one: with it, that a request keeps the phase. -/
theorem trivial_keeps : Keeps fun _ => True := by
  constructor <;> intros <;> trivial

theorem takeRequest_phase {i : Instr} {s t : State} (h : takeRequest i s = .next t) : t.phase = s.phase :=
  (trivial_keeps.takeRequest i s t trivial h).2

theorem takeRequest_next (i : Instr) (s : State) : ∃ t, takeRequest i s = .next t := by
  cases i <;> simp only [takeRequest]
  case transportRefusal | transactionStart | transactionEnd | measurementComplete | sweepTick | commitPoint |
      holdLimitExpiry | discardTimerExpiry | leaseTimerExpiry | restartDelayExpiry | erasingEnd | programmingEnd |
      verifyingEnd | supplyLow | supplyGood | powerReset | lineReset | resetEnd | startUpLoadComplete | pulseEnd =>
    exact ⟨s, rfl⟩
  all_goals exact State.request_next s _ _ _ _

/-! ### Messages and the requests they are taken as (10 R173) -/

/-- What is taken from a code and parameter bytes is a request of the port (10 R180). -/
theorem decodeParams_requestPort {p : Port} {code tag : Byte} {params : List Byte} {c : Instr}
    (h : decodeParams p code tag params = some c) : requestPort c = some p := by
  unfold decodeParams noParams at h
  repeat' split at h
  all_goals cases h <;> rfl

theorem decodeMessage_requestPort {p : Port} {message : List Byte} {overflow : Bool} {c : Instr}
    (h : decodeMessage p message overflow = .ok c) : requestPort c = some p := by
  unfold decodeMessage at h
  repeat' split at h
  all_goals cases h
  rename_i hi
  exact decodeParams_requestPort hi

/-- A request taken from a message means what its own command does (10 R173; log 5). -/
theorem takeRequest_eq_exec {c : Instr} {p : Port} (h : requestPort c = some p) (s : State) :
    takeRequest c s = exec c s := by
  cases c
  case transportRefusal | transactionStart | transactionEnd | measurementComplete | sweepTick | commitPoint |
      holdLimitExpiry | discardTimerExpiry | leaseTimerExpiry | restartDelayExpiry | erasingEnd | programmingEnd |
      verifyingEnd | supplyLow | supplyGood | powerReset | lineReset | resetEnd | startUpLoadComplete | pulseEnd =>
    cases h
  all_goals rfl

/-! ### The end of a transaction (10 R171, R172) -/

theorem State.endTransaction_none {s : State} {p : Port} (h : (s.ports.get p).indication = .none) :
    s.endTransaction p = .next s := by
  unfold State.endTransaction
  dsimp only
  rw [h]

theorem State.endTransaction_read {s : State} {p : Port} (h : (s.ports.get p).indication = .read) :
    s.endTransaction p = .next (s.setPort p (s.ports.get p).ended) := by
  unfold State.endTransaction
  dsimp only
  rw [h]

/-- A write transaction that wrote nothing leaves no message. -/
theorem State.endTransaction_empty {s : State} {p : Port} (h : (s.ports.get p).indication = .write)
    (hb : (s.ports.get p).buffer = []) (ho : (s.ports.get p).overflow = false) :
    s.endTransaction p = .next (s.setPort p (s.ports.get p).ended) := by
  unfold State.endTransaction
  dsimp only
  rw [h, hb, ho]
  rfl

theorem State.endTransaction_message {s : State} {p : Port} (h : (s.ports.get p).indication = .write)
    (hw : (s.ports.get p).buffer ≠ [] ∨ (s.ports.get p).overflow = true) : s.endTransaction p =
      (s.setPort p (s.ports.get p).ended).receiveMessage p (s.ports.get p).buffer (s.ports.get p).overflow := by
  unfold State.endTransaction
  dsimp only
  rw [h]
  have : ((s.ports.get p).buffer.isEmpty && !(s.ports.get p).overflow) = false := by
    rcases hw with hb | ho
    · simp [hb]
    · simp [ho]
  simp only [this, Bool.false_eq_true, if_false]

/-- The message that is received leaves the hub running and its port as the transaction's end left it, but for its held
response. -/
theorem State.receiveMessage_leaves (s : State) (p : Port) (message : List Byte) (overflow : Bool) :
    ∃ t, s.receiveMessage p message overflow = .next t ∧ t.phase = s.phase ∧ SameInterfaces s t := by
  unfold State.receiveMessage
  split
  · rename_i e _
    refine ⟨_, rfl, ?_, ?_⟩
    · cases e <;> rfl
    · have hsame : SameInterfaces s (s.answer p (echoedTag message) (.plain (transportStatus e))) :=
      State.answer_interfaces rfl p _ _
      cases e <;> exact hsame
  · rename_i i _
    obtain ⟨t, ht⟩ := takeRequest_next i s
    exact ⟨t, ht, takeRequest_phase ht, takeRequest_interfaces ht⟩

theorem State.setPort_get_same (s : State) (p : Port) (i : PortInterface) : (s.setPort p i).ports.get p = i :=
  PortMap.get_set_same _ _ _

/-- The end of a transaction leaves the hub running and the port without one. -/
theorem State.endTransaction_leaves {s : State} (p : Port) (hp : s.phase = .running) :
    ∃ t, s.endTransaction p = .next t ∧ t.phase = .running ∧ (t.ports.get p).indication = .none ∧
      (t.ports.get p).address = (s.ports.get p).address := by
  have hended : (s.setPort p (s.ports.get p).ended).ports.get p = (s.ports.get p).ended := s.setPort_get_same p _
  have hquiet (h : s.endTransaction p = .next (s.setPort p (s.ports.get p).ended)) :
      ∃ t, s.endTransaction p = .next t ∧ t.phase = .running ∧ (t.ports.get p).indication = .none ∧
        (t.ports.get p).address = (s.ports.get p).address :=
    ⟨_, h, hp, by rw [hended]; rfl, by rw [hended]; rfl⟩
  cases hi : (s.ports.get p).indication
  case none => exact ⟨s, State.endTransaction_none hi, hp, hi, rfl⟩
  case read => exact hquiet (State.endTransaction_read hi)
  case write =>
    by_cases hw : (s.ports.get p).buffer ≠ [] ∨ (s.ports.get p).overflow = true
    · obtain ⟨t, ht, hphase, hsame⟩ := (s.setPort p (s.ports.get p).ended).receiveMessage_leaves p
        (s.ports.get p).buffer (s.ports.get p).overflow
      obtain ⟨hind, haddr⟩ := hsame p
      rw [hended] at hind haddr
      exact ⟨t, (State.endTransaction_message hi hw).trans ht, hphase.trans hp, hind, haddr⟩
    · rw [not_or, not_not, Bool.not_eq_true] at hw
      exact hquiet (State.endTransaction_empty hi hw.1 hw.2)

/-! ### The commands of a transaction -/

theorem exec_transactionEnd {s : State} {p : Port} (hp : s.phase = .running) :
    exec (.transactionEnd p) s = s.endTransaction p := by
  simp only [exec, execTransactionEnd]
  rw [hp]

/-- A start ends the transaction in progress, and then begins one where the address is the port's. -/
theorem exec_transactionStart {s t : State} {p : Port} {address : BitVec 7} {direction : Direction} {written : List Byte}
    (hp : s.phase = .running) (ht : s.endTransaction p = .next t) :
    exec (.transactionStart p address direction written) s =
      .next (if address = (s.ports.get p).address then t.beginTransaction p direction written else t) := by
  simp only [exec, execTransactionStart]
  rw [hp, ht]
  have hack := s.acknowledgesAddress_iff p address
  by_cases ha : address = (s.ports.get p).address
  · rw [if_pos ha]
    simp only [hack.2 ⟨hp, ha⟩, if_true]
  · have hnot : ¬s.acknowledgesAddress p address = true := fun h => ha (hack.1 h).2
    rw [if_neg ha]
    simp only [hnot, if_false, Bool.false_eq_true]

/-- A port interface in a transaction that has begun (10 R171, R172). -/
theorem PortInterface.begun_eq (i : PortInterface) (direction : Direction) (written : List Byte) :
    i.begun direction written =
      { i with
        indication := if direction = .write then .write else .read
        buffer := if direction = .write then written.take 41 else []
        overflow := if direction = .write then decide (41 < written.length) else false } := by
  cases direction
  · exact i.begun_write written
  · rfl

/-- The next data byte is the port's to acknowledge in a write transaction alone, while fewer than 41 have been written. -/
theorem PortInterface.begun_acknowledgesByte (i : PortInterface) (direction : Direction) (written : List Byte) :
    (i.begun direction written).acknowledgesByte = true ↔ direction = .write ∧ written.length < 41 := by
  rw [PortInterface.acknowledgesByte_iff, PortInterface.begun_eq]
  cases direction
  · simp
  · simp

/-- Settles O41: the cases of the indication, and of the address at a start. -/
theorem transactions : Obligations.Transactions := by
  unfold Obligations.Transactions
  refine ⟨State.acknowledgesAddress_iff, fun s p hp => ?_⟩
  intro i ended
  refine ⟨fun address direction written => ⟨fun hi ha => ?_, fun hi ha => ?_, fun hi ha => ?_, fun hi => ?_⟩,
    fun hi => ?_, fun hi => ?_, fun hi hb ho => ?_, fun hi hw => ⟨fun c hc => ?_, fun e he => ?_⟩⟩
  · rw [exec_transactionStart hp (State.endTransaction_none hi), if_pos ha, ← PortInterface.begun_eq]
    rfl
  · refine ⟨s.beginTransaction p direction written, ?_, ?_⟩
    · rw [exec_transactionStart hp (State.endTransaction_none hi), if_pos ha]
    · show (((s.setPort p (i.begun direction written)).ports.get p).acknowledgesByte = true) ↔ _
      rw [State.setPort_get_same]
      exact i.begun_acknowledgesByte direction written
  · rw [exec_transactionStart hp (State.endTransaction_none hi), if_neg ha]
  · obtain ⟨t, ht, hphase, hind, haddr⟩ := State.endTransaction_leaves p hp
    refine ⟨t, (exec_transactionEnd hp).trans ht, hind, haddr, ?_⟩
    rw [exec_transactionStart hp ht, exec_transactionStart hphase (State.endTransaction_none hind), haddr]
  · exact (exec_transactionEnd hp).trans (State.endTransaction_none hi)
  · exact (exec_transactionEnd hp).trans (State.endTransaction_read hi)
  · exact (exec_transactionEnd hp).trans (State.endTransaction_empty hi hb ho)
  · rw [exec_transactionEnd hp, State.endTransaction_message hi hw, ← takeRequest_eq_exec (decodeMessage_requestPort hc)]
    unfold State.receiveMessage
    rw [hc]
    rfl
  · rw [exec_transactionEnd hp, State.endTransaction_message hi hw]
    have hrun : ended.phase = .running := hp
    simp only [exec, execTransportRefusal]
    rw [State.whileRunning_running hrun]
    unfold State.receiveMessage
    rw [he]
    rfl

end Sys2Proof.Machine
end

section
/-! PROOFS. The commit point: its steps, interleaved with the offers of their events, come to what 08 R150 and R151 say. -/

namespace Sys2Proof.Machine

/-! ### An offer reads the delivery unit, the status block, the timebase and the sweep number alone (06 R91) -/

/-- A port's record with its line at a polarity. -/
def Delivery.atPolarity (d : Delivery) (x : Polarity) : Delivery := { d with line := { d.line with polarity := x } }

@[simp] theorem Delivery.atPolarity_session (d : Delivery) (x : Polarity) : (d.atPolarity x).session = d.session := rfl
@[simp] theorem Delivery.atPolarity_appendable (d : Delivery) (x : Polarity) :
    (d.atPolarity x).appendable = d.appendable := rfl

/-- An append moves the line, not its polarity (05 R86, R87). -/
theorem Delivery.lineAfterAppend_atPolarity (d : Delivery) (now : Nat) (x : Polarity) :
    (d.atPolarity x).lineAfterAppend now = (d.lineAfterAppend now).atPolarity x := by
  unfold Delivery.lineAfterAppend
  rw [Delivery.atPolarity_session]
  cases d.session with
  | none => rfl
  | some se =>
    dsimp only
    cases se.mode with
    | level =>
      dsimp only
      rw [apply_ite (Delivery.atPolarity · x)]
      rfl
    | pulse =>
      dsimp only
      rw [apply_ite (Delivery.atPolarity · x)]
      by_cases hj : d.justReopened now = true
      · have hj' : (d.atPolarity x).justReopened now = true := hj
        simp only [hj, hj', if_true]
        rfl
      · have hj' : ¬(d.atPolarity x).justReopened now = true := hj
        simp only [hj, hj']
        rfl

theorem Delivery.append_atPolarity (d : Delivery) (now : Nat) (stamp : BitVec 16) (resync : Bool) (r : Report)
    (x : Polarity) : (d.atPolarity x).append now stamp resync r = (d.append now stamp resync r).atPolarity x :=
  Delivery.lineAfterAppend_atPolarity
    { d with
      queue := d.queue ++ [{ sequence := d.nextSeq, report := r, resync := resync, stamp := stamp, read := false }]
      nextSeq := nextSequence d.nextSeq
      appended := true } now x

/-- Two states in which an offer has the same effect, the polarities of the lines apart. -/
structure SameOffers (s t : State) : Prop where
  now : s.now = t.now
  stamp : s.stamp = t.stamp
  status : s.status = t.status
  delivery : ∀ q x, (s.delivery.get q).atPolarity x = (t.delivery.get q).atPolarity x

theorem SameOffers.trans {s t u : State} (h : SameOffers s t) (g : SameOffers t u) : SameOffers s u :=
  ⟨h.now.trans g.now, h.stamp.trans g.stamp, h.status.trans g.status, fun q x => (h.delivery q x).trans (g.delivery q x)⟩

theorem SameOffers.of_eq {s t : State} (hn : s.now = t.now) (hq : s.sequencer.number = t.sequencer.number)
    (hs : s.status = t.status) (hd : s.delivery = t.delivery) : SameOffers s t :=
  ⟨hn, by unfold State.stamp; rw [hq], hs, fun q x => by rw [hd]⟩

/-- Replacing a port's record alike. -/
theorem SameOffers.set {s t : State} (h : SameOffers s t) {p : Port} {d e : Delivery}
    (hde : ∀ x, d.atPolarity x = e.atPolarity x) : SameOffers (s.setDeliveryOf p d) (t.setDeliveryOf p e) := by
  refine ⟨h.now, h.stamp, h.status, fun q x => ?_⟩
  show ((s.delivery.set p d).get q).atPolarity x = ((t.delivery.set p e).get q).atPolarity x
  rw [PortMap.get_set, PortMap.get_set]
  split
  · exact hde x
  · exact h.delivery q x

theorem SameOffers.countLapse {s t : State} (h : SameOffers s t) (p : Port) :
    SameOffers (s.countLapse p) (t.countLapse p) :=
  ⟨h.now, h.stamp, by simp [State.countLapse, State.setCounters, State.setStatus, h.status], h.delivery⟩

theorem SameOffers.session {s t : State} (h : SameOffers s t) (p : Port) :
    (s.delivery.get p).session = (t.delivery.get p).session := by
  simpa using congrArg Delivery.session (h.delivery p .activeLow)

theorem SameOffers.offerTo {s t : State} (h : SameOffers s t) (p : Port) (r : Report) :
    SameOffers (s.offerTo p r) (t.offerTo p r) := by
  have hsession := h.session p
  have happend : (s.delivery.get p).appendable = (t.delivery.get p).appendable := by
    simpa using congrArg Delivery.appendable (h.delivery p .activeLow)
  unfold State.offerTo
  dsimp only
  rw [← hsession, ← happend, ← h.now, ← h.stamp]
  split
  · exact h
  · split
    · refine h.set fun x => ?_
      rw [← Delivery.append_atPolarity, ← Delivery.append_atPolarity, h.delivery p x]
    · refine (h.set fun x => ?_).countLapse p
      exact congrArg (Delivery.fold · r) (h.delivery p x)

theorem SameOffers.offerIfSubscribed {s t : State} (h : SameOffers s t) (p : Port) (r : Report) :
    SameOffers (s.offerIfSubscribed p r) (t.offerIfSubscribed p r) := by
  unfold State.offerIfSubscribed
  rw [← h.session p]
  split
  · exact h
  · split
    · exact h.offerTo p r
    · exact h

theorem SameOffers.offerAll {s t : State} (h : SameOffers s t) (r : Report) :
    SameOffers (s.offerAll r) (t.offerAll r) :=
  ((h.offerIfSubscribed .a r).offerIfSubscribed .b r).offerIfSubscribed .c r

/-- An event, if there is one, offered to every open session it concerns. -/
def State.offerEach (s : State) (r : Option Report) : State := r.elim s s.offerAll

/-- Steps on distinct items, each offering the event that its own item's record makes, offer what the items' records at the
beginning make, in the items' order. -/
theorem SameOffers.foldl {α β : Type} {f : State → α → State} {g : State → α → β}
    {report : β → α → Option Report}
    (hstep : ∀ s a, SameOffers (f s a) (s.offerEach (report (g s a) a)))
    (hother : ∀ s a b, b ≠ a → g (f s a) b = g s b) :
    ∀ (l : List α) (x : α → β) (s t : State), l.Nodup → (∀ a ∈ l, g s a = x a) → SameOffers s t →
      SameOffers (l.foldl f s) ((l.filterMap fun a => report (x a) a).foldl State.offerAll t)
  | [], _, _, _, _, _, h => h
  | a :: l, x, s, t, hl, hx, h => by
    obtain ⟨ha, hl⟩ := List.nodup_cons.1 hl
    have hrest : ∀ b ∈ l, g (f s a) b = x b := fun b hb => by
      rw [hother s a b fun e => ha (e ▸ hb)]
      exact hx b (List.mem_cons_of_mem a hb)
    have hfirst : SameOffers (f s a) (s.offerEach (report (x a) a)) := hx a List.mem_cons_self ▸ hstep s a
    rw [List.foldl_cons]
    cases hr : report (x a) a with
    | none =>
      rw [List.filterMap_cons_none (by exact hr)]
      rw [hr] at hfirst
      exact SameOffers.foldl hstep hother l x _ _ hl hrest (hfirst.trans h)
    | some r =>
      rw [List.filterMap_cons_some (by exact hr), List.foldl_cons]
      rw [hr] at hfirst
      exact SameOffers.foldl hstep hother l x _ _ hl hrest (hfirst.trans (h.offerAll r))

/-! ### The events of a commit point (08 R150, steps 3 to 5) -/

/-- The event of a channel brought into line (03 R51). -/
def channelReport (old new : Configuration) (t : Tracker) (n : ChannelId) : Option Report :=
  if sameMeasurement (old.channels.get n) (new.channels.get n) then none
  else (t.reinitialise n (new.channels.get n)).2

/-- The event of a term that is reset (04 R69). -/
def termReport (old new : Configuration) (r : TermRecord) (k : TermId) : Option Report :=
  if old.terms.get k = new.terms.get k then none
  else
    match r.state with
    | .true | .blocked => some (.tmFalse k (termStartState (new.terms.get k)) .config)
    | .off | .false | .arming => none

theorem sameMeasurement_iff (f g : ChannelProfile) : sameMeasurement f g = true ↔
    f.enabled = g.enabled ∧ f.settleSteps = g.settleSteps ∧ f.driveCode = g.driveCode ∧ f.resolution = g.resolution ∧
    f.quiet = g.quiet := by
  simp [sameMeasurement, and_assoc]

/-- A tracker's new record is none of an offer's business. -/
theorem SameOffers.trackerMoves (s : State) (n : ChannelId) (x : Tracker × Option Report) :
    SameOffers (s.trackerMoves n x) (s.offerEach x.2) := by
  unfold State.trackerMoves
  have hset : SameOffers (s.setTracker n x.1) s := SameOffers.of_eq rfl rfl rfl rfl
  cases x.2 with
  | none => exact hset
  | some r => exact hset.offerAll r

theorem SameOffers.termMoves (s : State) (k : TermId) (x : TermRecord × Option Report) :
    SameOffers (s.termMoves k x) (s.offerEach x.2) := by
  unfold State.termMoves
  have hset : SameOffers (s.setTerm k x.1) s := SameOffers.of_eq rfl rfl rfl rfl
  cases x.2 with
  | none => exact hset
  | some r => exact hset.offerAll r

theorem SameOffers.realignChannel (old new : Configuration) (s : State) (n : ChannelId) :
    SameOffers (State.realignChannel old new s n) (s.offerEach (channelReport old new (s.trackers.get n) n)) := by
  unfold State.realignChannel channelReport
  dsimp only
  split_ifs with heq hsame hsame
  · exact SameOffers.of_eq rfl rfl rfl rfl
  · exact absurd ((sameMeasurement_iff _ _).2 (by simp [heq])) hsame
  · exact SameOffers.of_eq rfl rfl rfl rfl
  · exact SameOffers.trackerMoves s n _

theorem SameOffers.resetTerm (old new : Configuration) (s : State) (k : TermId) :
    SameOffers (State.resetTerm old new s k) (s.offerEach (termReport old new (s.terms.get k) k)) := by
  unfold State.resetTerm termReport
  dsimp only
  split_ifs with heq
  · exact SameOffers.of_eq rfl rfl rfl rfl
  · exact SameOffers.termMoves s k _

theorem State.realignChannel_other (old new : Configuration) (s : State) (n m : ChannelId) (h : m ≠ n) :
    (State.realignChannel old new s n).trackers.get m = s.trackers.get m := by
  unfold State.realignChannel
  dsimp only
  split_ifs
  · rfl
  · exact get_setAt_ne _ h _
  · rw [State.trackerMoves_trackers]; exact get_setAt_ne _ h _

theorem State.resetTerm_other (old new : Configuration) (s : State) (k j : TermId) (h : j ≠ k) :
    (State.resetTerm old new s k).terms.get j = s.terms.get j := by
  unfold State.resetTerm
  dsimp only
  split_ifs
  · rfl
  · rw [State.termMoves_terms]; exact get_setAt_ne _ h _

/-- The events that the steps of a commit point offer, in their order (08 R150). -/
def State.commitReports (s : State) (staging : Configuration) : List Report :=
  [.epoch (s.epoch + 1)] ++
  ChannelId.all.filterMap (fun n => channelReport s.config staging (s.trackers.get n) n) ++
  TermId.all.filterMap (fun k => termReport s.config staging (s.terms.get k) k)

/-- The polarities are none of an offer's business. -/
theorem SameOffers.applyPolarities (s : State) : SameOffers s.applyPolarities s :=
  ⟨by simp, by simp [State.stamp], by simp, fun q x => by rw [State.applyPolarities_get]; rfl⟩

/-- The steps of a commit point leave the delivery unit and the status block as the offers of its events do. -/
theorem SameOffers.commitSteps (s : State) (staging : Configuration) :
    SameOffers (s.commitSteps staging) ((s.commitReports staging).foldl State.offerAll s) := by
  let s1 := s.enactStaging staging
  let s3 := s1.offerAll (.epoch (s.epoch + 1))
  let s5 := (s3.realignChannels s.config staging).resetTerms s.config staging
  have h1 : SameOffers s1 s := SameOffers.of_eq rfl rfl rfl rfl
  have h3 : SameOffers s3 (s.offerAll (.epoch (s.epoch + 1))) := h1.offerAll _
  have h4 := SameOffers.foldl (SameOffers.realignChannel s.config staging) (State.realignChannel_other s.config staging)
    ChannelId.all s.trackers.get s3 _ (List.nodup_finRange 24) (fun n _ => by simp [s3, s1, State.enactStaging]) h3
  have h5 := SameOffers.foldl (SameOffers.resetTerm s.config staging) (State.resetTerm_other s.config staging)
    TermId.all s.terms.get (s3.realignChannels s.config staging) _ (List.nodup_finRange 16)
    (fun k _ => by simp [s3, s1, State.enactStaging]) h4
  have h6 : SameOffers s5.completeOffSamples s5 := SameOffers.of_eq rfl rfl rfl rfl
  have h7 : SameOffers s5.completeOffSamples.applyPolarities s5 := (SameOffers.applyPolarities _).trans h6
  have hr : SameOffers s5.completeOffSamples.applyPolarities.restartSchedule
      s5.completeOffSamples.applyPolarities := SameOffers.of_eq rfl rfl rfl rfl
  have h8 : SameOffers (s.commitSteps staging) s5 := hr.trans h7
  unfold State.commitReports
  rw [List.foldl_append, List.foldl_append]
  exact h8.trans h5

theorem SameOffers.offerCommitted {s t : State} (h : SameOffers s t) (holder : Option Port) :
    SameOffers (s.offerCommitted holder) (t.offerCommitted holder) := by
  cases holder with
  | none => exact h
  | some p => exact h.offerTo p _

/-- An offer drives no line at another polarity. -/
theorem State.offerTo_polarity (s : State) (p : Port) (r : Report) (q : Port) :
    ((s.offerTo p r).delivery.get q).line.polarity = (s.delivery.get q).line.polarity := by
  unfold State.offerTo
  dsimp only
  split
  · rfl
  · split
    · show ((s.delivery.set p _).get q).line.polarity = _
      rw [PortMap.get_set]
      split
      · rename_i e; subst e; exact (Delivery.append_line _ _ _ _ _).2
      · rfl
    · show ((s.delivery.set p _).get q).line.polarity = _
      rw [PortMap.get_set]
      split
      · rename_i e; subst e; rfl
      · rfl

theorem State.offerCommitted_polarity (s : State) (holder : Option Port) (q : Port) :
    ((s.offerCommitted holder).delivery.get q).line.polarity = (s.delivery.get q).line.polarity := by
  cases holder with
  | none => rfl
  | some p => exact s.offerTo_polarity p _ q

/-- The lines are driven at the polarities of the new port profiles (05 R85). -/
theorem State.commitSteps_polarity (s : State) (staging : Configuration) (q : Port) :
    ((s.commitSteps staging).delivery.get q).line.polarity = (staging.ports.get q).polarity := by
  simp only [State.commitSteps, State.restartSchedule, State.setSequencer_delivery]
  rw [State.applyPolarities_get]
  simp [State.config, State.enactStaging]

/-! ### The trackers and the terms at a commit point -/

theorem ChannelState.isActive_iff (x : ChannelState) : x.isActive = true ↔ x = .active ∨ x = .releasePending := by
  cases x <;> simp [ChannelState.isActive]

theorem startHoldTimer_eq (m : Moment) (l : Nat) : startHoldTimer m l =
    if l ≠ 0 then (if m.run = .run then .running (m.now + 400000 * l) else .paused (400000 * l)) else .stopped := by
  have hms : milliseconds (100 * l) = 400000 * l := by unfold milliseconds; omega
  unfold startHoldTimer
  rw [hms]
  by_cases hl : l = 0
  · simp [hl]
  · cases m.run <;> simp [hl]

/-- A channel whose measurement-affecting fields changed starts afresh (03 R50). -/
theorem State.commitSteps_remeasured {s : State} {staging : Configuration} {n : ChannelId}
    (h : ¬sameMeasurement (s.config.channels.get n) (staging.channels.get n) = true) :
    (s.commitSteps staging).trackers.get n = blankTracker (startState (staging.channels.get n)) := by
  rw [State.commitSteps_trackers, if_neg h, if_neg]
  exact fun heq => h ((sameMeasurement_iff _ _).2 (by simp [heq]))

/-- A channel whose threshold fields alone changed, if any, keeps its record but for the bucket and the timer
(02 R36, 03 R48, R49). -/
theorem State.commitSteps_kept {s : State} {staging : Configuration} {n : ChannelId}
    (h : sameMeasurement (s.config.channels.get n) (staging.channels.get n) = true) :
    (s.commitSteps staging).trackers.get n =
      (s.trackers.get n).rethreshold s.moment (s.config.channels.get n) (staging.channels.get n) := by
  rw [State.commitSteps_trackers, if_pos h]
  split
  · rename_i heq; simp [Tracker.rethreshold, heq]
  · rfl

/-- The record with its threshold fields changed, in ticks. -/
theorem Tracker.rethreshold_eq (t : Tracker) (m : Moment) (f g : ChannelProfile) : t.rethreshold m f g =
    { t with
      bucket := if f.driftLimit = g.driftLimit then t.bucket else 0
      holdTimer :=
        if f.holdLimit = g.holdLimit then t.holdTimer
        else if (t.state = .active ∨ t.state = .releasePending) ∧ g.holdLimit ≠ 0 then
          (if m.run = .run then .running (m.now + 400000 * g.holdLimit) else .paused (400000 * g.holdLimit))
        else .stopped } := by
  unfold Tracker.rethreshold
  simp only [ChannelState.isActive_iff, startHoldTimer_eq]
  by_cases ha : t.state = .active ∨ t.state = .releasePending <;> simp [ha]

/-- The state of a channel after the steps of a commit point. -/
theorem State.commitSteps_state (s : State) (staging : Configuration) (n : ChannelId) :
    ((s.commitSteps staging).trackers.get n).state =
      if sameMeasurement (s.config.channels.get n) (staging.channels.get n) then (s.trackers.get n).state
      else startState (staging.channels.get n) := by
  split
  · rename_i h; rw [State.commitSteps_kept h]; rfl
  · rename_i h; rw [State.commitSteps_remeasured h]; rfl

/-! ### The commit point -/

theorem State.committed_offers (s : State) (staging : Configuration) (holder : Option Port) :
    SameOffers (s.committed staging holder)
    (((s.commitReports staging).foldl State.offerAll s).offerCommitted holder) := by
  refine SameOffers.trans ?_ ((SameOffers.commitSteps s staging).offerCommitted holder)
  unfold State.committed
  cases holder <;> exact SameOffers.of_eq rfl rfl rfl rfl

/-- The delivery unit is as the offers leave it, its lines at the new polarities (05 R85; 08 R150). -/
theorem State.committed_delivery (s : State) (staging : Configuration) (holder : Option Port) (q : Port) :
    (s.committed staging holder).delivery.get q =
    ((((s.commitReports staging).foldl State.offerAll s).offerCommitted holder).delivery.get q).atPolarity
      (staging.ports.get q).polarity := by
  have hpol : ((s.committed staging holder).delivery.get q).line.polarity = (staging.ports.get q).polarity := by
    have hdelivery : (s.committed staging holder).delivery = ((s.commitSteps staging).offerCommitted holder).delivery := by
      cases holder <;> rfl
    rw [hdelivery, State.offerCommitted_polarity, State.commitSteps_polarity]
  rw [← (s.committed_offers staging holder).delivery q, ← hpol]
  rfl

theorem State.committed_commitWaiting (s : State) (staging : Configuration) (holder : Option Port) :
    (s.committed staging holder).commitWaiting = false := by
  refine State.commitWaiting_eq_false ?_
  rw [State.committed_lease]
  cases holder <;> simp

theorem exec_commitPoint {s : State} {holder : Option Port} {staging : Configuration} {dirty : Bool}
    (hp : s.phase = .running) (hl : s.lease = .committing holder staging dirty) (hpos : s.sequencer.position = none)
    (hu : s.unit = none) : exec .commitPoint s = .next (s.committed staging holder).consult := by
  simp only [exec, execCommitPoint]
  rw [State.whileRunning_running hp, hl, hpos, hu]
  rfl

/-- The arbiter after a commit point: the oldest entry that still waits is measured, or nothing begins. -/
theorem State.committed_consult (s : State) (staging : Configuration) (holder : Option Port) (hu : s.unit = none)
    (hpos : s.sequencer.position = none) :
    ((∀ e ∈ (s.commitSteps staging).fresh, e.state ≠ .waiting) →
      (s.committed staging holder).consult = s.committed staging holder) ∧
    (∀ e, (s.commitSteps staging).fresh.find? (fun e => decide (e.state = .waiting)) = some e →
      (s.committed staging holder).consult = (s.committed staging holder).beginFreshClaim e.channel) := by
  constructor
  · intro hnone
    exact State.consult_of_nothing (State.oldestWaiting_eq_none (by simpa using hnone)) (by simpa using hpos)
  · intro e he
    exact State.consult_of_oldest (by simpa using hu) (s.committed_commitWaiting staging holder)
      (by unfold State.oldestWaiting; simpa using he)

/-- The event of a channel brought into line, in the words of the rules (03 R51; 08 R150). -/
theorem channelReport_eq (old new : Configuration) (t : Tracker) (n : ChannelId) : channelReport old new t n =
    if ¬((old.channels.get n).enabled = (new.channels.get n).enabled ∧
        (old.channels.get n).settleSteps = (new.channels.get n).settleSteps ∧
        (old.channels.get n).driveCode = (new.channels.get n).driveCode ∧
        (old.channels.get n).resolution = (new.channels.get n).resolution ∧
        (old.channels.get n).quiet = (new.channels.get n).quiet) ∧ (t.state = .active ∨ t.state = .releasePending)
    then some (.chRelease n (startState (new.channels.get n)) .config) else none := by
  unfold channelReport Tracker.reinitialise
  simp only [← sameMeasurement_iff, ← ChannelState.isActive_iff]
  split_ifs <;> simp_all

/-- The event of a term that is reset, in the words of the rules (04 R69). -/
theorem termReport_eq (old new : Configuration) (r : TermRecord) (k : TermId) : termReport old new r k =
    if old.terms.get k ≠ new.terms.get k ∧ (r.state = .true ∨ r.state = .blocked)
    then some (.tmFalse k (termStartState (new.terms.get k)) .config) else none := by
  unfold termReport
  split_ifs with heq hne hne
  · exact absurd heq hne.1
  · rfl
  · rcases hne.2 with h | h <;> rw [h]
  · cases h : r.state <;> simp_all

/-- Settles O33: the statement's reports, records and entries are those of the steps; then the arbiter is consulted. -/
theorem commitPoint : Obligations.CommitPoint := by
  unfold Obligations.CommitPoint
  intro s holder staging dirty hp hl hpos hu old remeasured start startTerm reports offered0 offered fresh
  have hremeasured (n : ChannelId) :
      remeasured n ↔ ¬sameMeasurement (s.config.channels.get n) (staging.channels.get n) = true :=
    (not_congr (sameMeasurement_iff _ _)).symm
  have hreports : reports = s.commitReports staging := by
    unfold State.commitReports
    simp only [channelReport_eq, termReport_eq]
    rfl
  have hoffered0 : offered0 = (s.commitReports staging).foldl State.offerAll s := by
    rw [← hreports]
  have hoffered : offered = (((s.commitReports staging).foldl State.offerAll s).offerCommitted holder) := by
    rw [← hoffered0]
    rfl
  have hfresh : fresh = (s.commitSteps staging).fresh := by
    rw [State.commitSteps_fresh]
    refine List.map_congr_left fun e _ => ?_
    unfold FreshEntry.completeOff
    simp only [decide_eq_true_eq, State.commitSteps_state]
    by_cases hn : remeasured e.channel
    · simp only [if_pos hn, if_neg ((hremeasured _).1 hn)]
      rfl
    · have hsame := not_not.1 (mt (hremeasured e.channel).2 hn)
      simp only [if_neg hn, if_pos hsame]
      rfl
  obtain ⟨hnone, hsome⟩ := s.committed_consult staging holder hu hpos
  rw [← hfresh] at hnone hsome
  refine ⟨(s.committed staging holder).consult, exec_commitPoint hp hl hpos hu, by simp, by simp, ?_, by simp,
    fun n => ⟨fun hn => ?_, fun hn => ?_⟩, fun k => ⟨fun hk => ?_, fun hk => ?_⟩, fun p => ?_, ?_, fun h => ?_,
    fun e he => ?_, by simp, by simp, by simp, by simp, by simp, by simp, by simp⟩
  · exact (State.consult_lease _).trans (s.committed_lease staging holder)
  · rw [State.consult_trackers, State.committed_trackers, State.commitSteps_remeasured ((hremeasured n).1 hn)]
    rfl
  · have hsame := not_not.1 (mt (hremeasured n).2 hn)
    rw [State.consult_trackers, State.committed_trackers, State.commitSteps_kept hsame, Tracker.rethreshold_eq]
    rfl
  · rw [State.consult_terms, State.committed_terms, State.commitSteps_terms, if_pos hk]
  · rw [State.consult_terms, State.committed_terms, State.commitSteps_terms, if_neg hk]
    rfl
  · rw [State.consult_delivery, State.committed_delivery, ← hoffered]
    rfl
  · rw [State.consult_status, (s.committed_offers staging holder).status, ← hoffered]
  · rw [hnone h]
    exact ⟨by simp [hfresh], by simpa using hu⟩
  · rw [hsome e he, State.beginFreshClaim_eq]
    simp only [State.committed_fresh, State.claimNow, State.committed_now, State.config, State.committed_active, hfresh]
    rw [State.committed_transactionInProgress]
    exact ⟨rfl, rfl⟩

end Sys2Proof.Machine
end

section
/-! PROOFS. The configuration and the lease, the trackers and the terms stay sound at every step (02 R25, R30; 03 R42 to R45;
04 R58, R65; 08 R130, R140, R148, R150; 09 R158, R163). -/

namespace Sys2Proof.Machine

/-! ### A sweep that begins -/

@[simp] theorem State.beginSweep_phase (s : State) : s.beginSweep.phase = s.phase := by
  unfold State.beginSweep; dsimp only; split <;> simp
@[simp] theorem State.beginSweep_active (s : State) : s.beginSweep.active = s.active := by
  unfold State.beginSweep; dsimp only; split <;> simp
@[simp] theorem State.beginSweep_lease (s : State) : s.beginSweep.lease = s.lease := by
  unfold State.beginSweep; dsimp only; split <;> simp
@[simp] theorem State.beginSweep_images (s : State) : s.beginSweep.images = s.images := by
  unfold State.beginSweep; dsimp only; split <;> simp
@[simp] theorem State.beginSweep_trackers (s : State) : s.beginSweep.trackers = s.trackers := by
  unfold State.beginSweep; dsimp only; split <;> simp
@[simp] theorem State.beginSweep_run (s : State) : s.beginSweep.sequencer.run = s.sequencer.run := by
  unfold State.beginSweep; dsimp only; split <;> simp [State.placeOrClose_sequencer]

@[simp] theorem State.sequencerActs_run (s : State) (claim : BitVec 32) :
    (s.sequencerActs claim).sequencer.run = s.sequencer.run := by
  unfold State.sequencerActs
  split
  · rfl
  · split
    · rw [State.placeOrClose_sequencer]
    · rfl

theorem SameOpen.beginSweep (s : State) : SameOpen s s.beginSweep := by
  unfold State.beginSweep
  dsimp only
  split
  · exact SameOpen.of_eq (by simp [State.placeOrClose])
  · exact (SameOpen.of_eq (by simp)).trans (SameOpen.placeOrClose _ none)

/-! ### The configuration and the lease -/

theorem State.config_of_active {s : State} {cfg : Configuration} (ha : s.active = some cfg) : s.config = cfg := by
  simp [State.config, ha]

/-- What a running hub with a sound configuration has (08 R130, R150; 09 R158). -/
theorem State.ConfigurationSound.config {s : State} (h : s.ConfigurationSound) (hp : s.phase = .running) :
    s.active = some s.config ∧ configValid s.config = true ∧ s.leaseSound s.config := by
  obtain ⟨cfg, ha, hv, hl⟩ := h.running hp
  rw [State.config_of_active ha]
  exact ⟨ha, hv, hl⟩

/-- On the running hub: a valid configuration in force, a lease record sound against it, and a snapshot of before. -/
theorem State.ConfigurationSound.of_running {s t : State} (h : s.ConfigurationSound) {cfg : Configuration}
    (hp : t.phase = .running) (ha : t.active = some cfg) (hv : configValid cfg = true) (hl : t.leaseSound cfg)
    (hs : t.images.store = s.images.store) : t.ConfigurationSound :=
  ⟨fun _ => ⟨cfg, ha, hv, hl⟩, fun hne => absurd hp hne, by rw [hs]; exact h.snapshot⟩

/-- The lease record changes, on the running hub, to one that is sound. -/
theorem State.ConfigurationSound.lease {s t : State} (h : s.ConfigurationSound) (hp : s.phase = .running)
    (hl : t.leaseSound s.config) (hp' : t.phase = s.phase := by simp) (ha : t.active = s.active := by simp)
    (hi : t.images = s.images := by simp) : t.ConfigurationSound :=
  let ⟨ha', hv, _⟩ := h.config hp
  h.of_running (hp'.trans hp) (ha.trans ha') hv hl (by rw [hi])

/-- A store begins, goes on or ends, and its snapshot is valid; nothing else of it changes. -/
theorem State.ConfigurationSound.store {s t : State} (h : s.ConfigurationSound)
    (hs : ∀ r, t.images.store = some r → configValid r.snapshot = true) (hp : t.phase = s.phase := by simp)
    (ha : t.active = s.active := by simp) (hl : t.lease = s.lease := by simp)
    (ho : SameOpen s t := by exact SameOpen.of_eq (by simp)) : t.ConfigurationSound where
  running hrun := by
    obtain ⟨cfg, hcfg, hv, hsound⟩ := h.running (hp ▸ hrun)
    exact ⟨cfg, ha.trans hcfg, hv, State.leaseSound_of hsound hl ho⟩
  before hne := by rw [ha, hl]; exact h.before (hp ▸ hne)
  snapshot := hs

/-- An effect that leaves the lease, the image store and the configuration, and closes no session. -/
theorem State.ConfigurationSound.of_frame {s t : State} (h : s.ConfigurationSound)
    (ho : SameOpen s t := by exact SameOpen.of_eq (by simp)) (hp : t.phase = s.phase := by simp)
    (ha : t.active = s.active := by simp) (hl : t.lease = s.lease := by simp) (hi : t.images = s.images := by simp) :
    t.ConfigurationSound :=
  h.store (by rw [hi]; exact h.snapshot) hp ha hl ho

/-- The lease timer is no part of what is asked of the lease record (08 R131). -/
theorem State.restartLeaseTimer_leaseSound {s : State} {cfg : Configuration} (p : Port) (h : s.leaseSound cfg) :
    (s.restartLeaseTimer p).leaseSound cfg := by
  unfold State.restartLeaseTimer
  split
  · rename_i hl
    split
    · simpa [State.leaseSound, hl, State.isOpen] using h
    · exact h
  all_goals exact h

theorem State.restartLeaseTimer_free {s : State} (p : Port) (h : s.lease = .free) :
    (s.restartLeaseTimer p).lease = .free := by
  simp [State.restartLeaseTimer, h]

/-- Another port's session is as it was when a port's session is closed. -/
theorem State.closed_isOpen {s : State} {p q : Port} (hne : q ≠ p) (h : s.isOpen q) : (s.closed p).isOpen q := by
  obtain ⟨se, hse⟩ := h
  exact ⟨se, by simpa [State.closed, State.setDeliveryOf, PortMap.get_set_ne _ hne] using hse⟩

/-- A CLOSE releases the lease of its port, or takes a waiting commit's holder away (05 R76). -/
theorem State.closed_leaseSound {s : State} {cfg : Configuration} (p : Port) (h : s.leaseSound cfg) :
    (s.closed p).leaseSound cfg := by
  have hlease : (s.closed p).lease = s.lease.closedBy p := rfl
  unfold State.leaseSound at h ⊢
  rw [hlease]
  split at h
  · rename_i hl
    simp [hl, Lease.closedBy]
  · rename_i holder staging dirty expiry hl
    obtain ⟨hopen, hrest⟩ := h
    by_cases hp : holder = p
    · simp [hl, Lease.closedBy, hp]
    · simp only [hl, Lease.closedBy, hp, if_false]
      exact ⟨State.closed_isOpen hp hopen, hrest⟩
  · rename_i holder staging dirty hl
    obtain ⟨hopen, hrest⟩ := h
    by_cases hp : holder = some p
    · simpa [hl, Lease.closedBy, hp] using hrest
    · simp only [hl, Lease.closedBy, hp, if_false]
      exact ⟨fun q hq => State.closed_isOpen (by rintro rfl; exact hp hq) (hopen q hq), hrest⟩

/-- The staging configuration of a waiting commit is one a commit point may put in force (08 R147, R148). -/
theorem State.leaseSound.committing {s : State} {cfg staging : Configuration} {holder : Option Port} {dirty : Bool}
    (h : s.leaseSound cfg) (hl : s.lease = .committing holder staging dirty) :
    (∀ p, holder = some p → s.isOpen p) ∧ configValid staging = true := by
  simp only [State.leaseSound, hl] at h
  obtain ⟨hopen, hrange, hviolation, _⟩ := h
  exact ⟨hopen, by simp [configValid, hrange, hviolation]⟩

/-- The commit point puts the staging configuration in force, and gives the lease to the holder anew or sets it free (08
R150, R151). -/
theorem State.ConfigurationSound.commitPoint {s : State} (h : s.ConfigurationSound) {holder : Option Port}
    {staging : Configuration} {dirty : Bool} (hp : s.phase = .running)
    (hl : s.lease = .committing holder staging dirty) : (s.committed staging holder).consult.ConfigurationSound := by
  obtain ⟨_, _, hsound⟩ := h.config hp
  obtain ⟨hopen, hv⟩ := hsound.committing hl
  refine h.of_running (cfg := staging) (by simpa using hp) (by simp) hv ?_ (by simp)
  have hrange : configInRange staging = true := by
    simp only [configValid, Bool.and_eq_true] at hv
    exact hv.1
  have hsame : SameOpen s (s.committed staging holder).consult :=
    (SameOpen.commitSteps s staging holder).trans (SameOpen.of_eq (State.consult_delivery _))
  cases holder with
  | none => simp [State.leaseSound]
  | some p => simpa [State.leaseSound, hrange] using (hopen p rfl).of hsame

/-- What each effect of the commands does to the configuration, the lease and the snapshot of a store. -/
theorem configurationSound_keeps : Keeps State.ConfigurationSound where
  now _ _ h := h.of_frame
  lease s p h :=
    { running := fun hp => by
        have hp' : s.phase = .running := by simpa using hp
        obtain ⟨ha, hv, hl⟩ := h.config hp'
        exact ⟨s.config, by simpa using ha, hv, State.restartLeaseTimer_leaseSound p hl⟩
      before := fun hne => by
        obtain ⟨ha, hl⟩ := h.before (by simpa using hne)
        exact ⟨by simpa using ha, State.restartLeaseTimer_free p hl⟩
      snapshot := by simpa using h.snapshot }
  hold _ _ _ _ h := h.of_frame
  counters _ _ h := h.of_frame
  opened s p se _ _ _ _ h := h.of_frame (fun q hq => by
    rcases State.setDeliveryOf_closed hq with rfl | hq
    · simp [State.opened, State.setDeliveryOf] at hq
    · exact hq) rfl rfl rfl rfl
  closed s p hp h := h.lease hp (State.closed_leaseSound p (h.config hp).2.2) rfl rfl rfl
  subscribed s p se _ _ _ _ hse h := h.of_frame (SameOpen.set fun hn => by simp [Delivery.subscribe, hse] at hn)
  readOut s p _ _ _ _ h := h.of_frame (SameOpen.set (Delivery.lineAfterRead_isOpen _ _))
  acknowledged s p _ _ _ _ _ _ h := h.of_frame (SameOpen.set (State.drain_open s _)) rfl rfl rfl rfl
  offered s p r h := h.of_frame (SameOpen.offerTo s p r)
  granted s p hp ho _ h := by
    obtain ⟨ha, hv, _⟩ := h.config hp
    simp only [configValid, Bool.and_eq_true] at hv
    exact h.lease hp ⟨ho, hv.1, by simp⟩ rfl rfl rfl
  freed s hp _ h := h.lease hp trivial
  staged s f holder staging dirty expiry hp hl hf h := by
    obtain ⟨_, hv, hsound⟩ := h.config hp
    simp only [State.leaseSound, hl] at hsound
    obtain ⟨hopen, hrange, _⟩ := hsound
    simp only [configValid, Bool.and_eq_true] at hv
    have hstage : s.stage f = s.setLease (.held holder (f staging) (decide (f staging ≠ s.config)) expiry) := by
      simp [State.stage, hl]
    rw [hstage]
    exact h.lease hp ⟨hopen, hf hrange hv.1, rfl⟩
  committing s holder staging expiry hp hl hviolation h := by
    obtain ⟨_, _, hsound⟩ := h.config hp
    simp only [State.leaseSound, hl] at hsound
    obtain ⟨hopen, hrange, hdirty⟩ := hsound
    have hsettled : (s.setLease (.committing (some holder) staging true)).ConfigurationSound :=
      h.lease hp ⟨fun p e => by cases e; exact hopen, hrange, hviolation, rfl, of_decide_eq_true hdirty.symm⟩
    exact hsettled.of_frame
  sampled _ _ _ _ _ _ _ _ h := h.of_frame
  unsampled _ _ _ h := h.of_frame
  halted s _ h := by
    unfold State.halted
    split
    · exact h
    · exact h.of_frame
  resumed s _ h := by
    unfold State.resumed
    split
    · exact h
    · exact h.of_frame
  restarting _ _ _ h := h.of_frame
  storing s p hp _ _ h :=
    h.store (fun r hr => by cases hr; exact (h.config hp).2.1) rfl rfl rfl (SameOpen.of_eq rfl)
  ended _ _ _ h := h.of_frame
  begun _ _ _ _ _ h := h.of_frame
  disturbed _ h := h.of_frame
  repeated _ _ _ _ h := h.of_frame (SameOpen.of_eq rfl) rfl rfl rfl rfl
  counted s n raw inRange _ _ h := h.of_frame (SameOpen.trackerTakes s n raw inRange)
  sweepEnded s m claim _ _ _ h :=
    h.of_frame ((SameOpen.sequencerActs s claim).trans (SameOpen.of_eq (by simp)))
  freshEnded _ _ _ _ _ _ h := h.of_frame
  freshLeft _ _ _ _ _ _ h := h.of_frame
  ticked _ _ _ _ h := h.of_frame
  swept s _ _ _ _ h := h.of_frame (SameOpen.beginSweep s)
  commitPoint s holder staging dirty hp hl _ _ h := h.commitPoint hp hl
  expired _ _ _ _ _ h := h.of_frame (SameOpen.trackerMoves _ _ _)
  erased s r _ _ hr _ h := h.store fun r' hr' => by cases hr'; exact h.snapshot r hr
  programmed s r _ _ hr _ h := h.store fun r' hr' => by cases hr'; exact h.snapshot r hr
  verified _ _ _ _ _ _ _ h := h.store fun _ hr' => nomatch hr'
  aborted _ _ _ h := h.store fun _ hr' => nomatch hr'
  supply _ _ h := h.of_frame
  pulsed _ _ _ _ _ h := h.of_frame (SameOpen.set id)
  reset s _ _ :=
    ⟨fun hp => (nomatch hp), fun _ => ⟨rfl, rfl⟩, by
      intro r hr
      have hnone : s.images.afterReset.store = none := by unfold ImageStore.afterReset; split <;> rfl
      exact absurd (hr.symm.trans hnone) (by simp)⟩
  load _ _ hp h := ⟨fun hr => (nomatch hr), fun _ => h.before (by simp [hp]), h.snapshot⟩
  startUp s _ cfg source hp hv h := by
    obtain ⟨_, hfree⟩ := h.before (by simp [hp])
    have hlease : (s.startUp cfg source).lease = .free := hfree
    exact h.of_running rfl rfl hv (by simp [State.leaseSound, hlease]) rfl

/-! ### The trackers -/

/-- The beginning of the load does not set the hub to work (09 R158, R159). -/
theorem State.beginLoad_running_iff {s : State} (straps : Straps) (hp : s.phase = .inReset) :
    (s.beginLoad straps).phase = .running ↔ s.phase = .running := by
  simp [State.beginLoad, hp]

/-- Every tracker is sound under its profile in a configuration. -/
def State.trackersUnder (s : State) (cfg : Configuration) : Prop :=
  ∀ n, (s.trackers.get n).Sound (cfg.channels.get n) s.sequencer.run

/-- What a running hub with sound trackers has. -/
theorem State.TrackersSound.under {s : State} (h : s.TrackersSound) (hp : s.phase = .running) :
    s.active = some s.config ∧ s.trackersUnder s.config := by
  obtain ⟨cfg, ha⟩ := Option.isSome_iff_exists.1 (h.running.1 hp)
  rw [State.config_of_active ha]
  exact ⟨ha, h.sound cfg ha⟩

theorem State.TrackersSound.of_under {t : State} {cfg : Configuration} (hp : t.phase = .running)
    (ha : t.active = some cfg) (h : t.trackersUnder cfg) : t.TrackersSound where
  running := by simp [hp, ha]
  sound cfg' ha' := by cases ha.symm.trans ha'; exact h
  before hn := absurd (ha.symm.trans hn) (by simp)

/-- An effect on none of what it reads. -/
theorem State.TrackersSound.of_frame {s t : State} (h : s.TrackersSound)
    (ht : t.trackers = s.trackers := by simp) (hr : t.sequencer.run = s.sequencer.run := by simp)
    (hp : t.phase = s.phase := by simp) (ha : t.active = s.active := by simp) : t.TrackersSound where
  running := by rw [hp, ha]; exact h.running
  sound := by rw [ha, ht, hr]; exact h.sound
  before := by rw [ha, ht]; exact h.before

/-- On the running hub one tracker takes a new record. -/
theorem State.TrackersSound.moves {s : State} (h : s.TrackersSound) (hp : s.phase = .running) (n : ChannelId)
    (x : Tracker × Option Report) (hx : x.1.Sound (s.profile n) s.sequencer.run) :
    (s.trackerMoves n x).TrackersSound := by
  obtain ⟨ha, hu⟩ := h.under hp
  refine .of_under (cfg := s.config) (by simpa using hp) (by simpa using ha) fun k => ?_
  rw [State.trackerMoves_trackers, get_setAt, State.trackerMoves_sequencer]
  split
  · rename_i e; subst e; exact hx
  · exact hu k

/-- HALT and RESUME: the run state changes, and every hold-limit timer with it (03 R45). -/
theorem State.TrackersSound.mapHoldTimers {s t : State} (h : s.TrackersSound) (hp : s.phase = .running)
    (g : HoldTimer → HoldTimer) (hstopped : g .stopped = .stopped)
    (hrunning : ∀ timer x, g timer = .running x → t.sequencer.run = .run)
    (hpaused : ∀ timer x, g timer = .paused x → t.sequencer.run = .halted)
    (ht : t.trackers = s.trackers) (hp' : t.phase = s.phase) (ha : t.active = s.active) :
    (t.mapHoldTimers g).TrackersSound := by
  obtain ⟨hcfg, hu⟩ := h.under hp
  refine .of_under (cfg := s.config) (by simpa using hp'.trans hp) (by simpa using ha.trans hcfg) fun n => ?_
  simp only [State.mapHoldTimers, State.setTrackers_trackers, get_ofFn, ht, State.setTrackers_sequencer]
  exact Tracker.map_sound (hu n) hstopped (hrunning _) (hpaused _)

/-- HALT: no timer runs on (03 R45, R47). -/
theorem State.TrackersSound.halted {s : State} (h : s.TrackersSound) (hp : s.phase = .running) :
    s.halted.TrackersSound := by
  unfold State.halted
  split
  · exact h
  · exact h.mapHoldTimers hp _ rfl (fun timer x hx => by cases timer <;> cases hx) (fun _ _ _ => rfl) rfl rfl rfl

/-- RESUME: no timer stays PAUSED (03 R45). -/
theorem State.TrackersSound.resumed {s : State} (h : s.TrackersSound) (hp : s.phase = .running) :
    s.resumed.TrackersSound := by
  unfold State.resumed
  split
  · exact h
  · exact h.mapHoldTimers hp _ rfl (fun _ _ _ => rfl) (fun timer x hx => by cases timer <;> cases hx) rfl rfl rfl

/-- The commit point keeps a channel, changes its thresholds or starts it anew (02 R36; 03 R48 to R51). -/
theorem State.TrackersSound.commitPoint {s : State} (h : s.TrackersSound) (hp : s.phase = .running)
    (staging : Configuration) (holder : Option Port) : (s.committed staging holder).consult.TrackersSound := by
  obtain ⟨_, hu⟩ := h.under hp
  refine .of_under (cfg := staging) (by simpa using hp) (by simp) fun n => ?_
  rw [State.consult_trackers, State.consult_sequencer, State.committed_trackers, State.committed_sequencer,
    State.commitSteps_trackers]
  split
  · rename_i hsame
    rw [← hsame]
    exact hu n
  · split
    · rename_i hmeasured
      exact Tracker.rethreshold_sound (m := s.moment) (hu n) hmeasured
    · exact blankTracker_sound _ _

/-- What each effect of the commands does to the trackers. -/
theorem trackersSound_keeps : Keeps State.TrackersSound where
  now _ _ h := h.of_frame
  lease _ _ h := h.of_frame
  hold _ _ _ _ h := h.of_frame
  counters _ _ h := h.of_frame
  opened _ _ _ _ _ _ _ h := h.of_frame rfl rfl rfl rfl
  closed _ _ _ h := h.of_frame rfl rfl rfl rfl
  subscribed _ _ _ _ _ _ _ _ h := h.of_frame
  readOut _ _ _ _ _ _ h := h.of_frame
  acknowledged _ _ _ _ _ _ _ _ h := h.of_frame rfl rfl rfl rfl
  offered _ _ _ h := h.of_frame
  granted _ _ _ _ _ h := h.of_frame rfl rfl rfl rfl
  freed _ _ _ h := h.of_frame
  staged _ _ _ _ _ _ _ _ _ h := h.of_frame
  committing _ _ _ _ _ _ _ h := h.of_frame
  sampled _ _ _ _ _ _ _ _ h := h.of_frame
  unsampled _ _ _ h := h.of_frame
  halted _ hp h := h.halted hp
  resumed _ hp h := h.resumed hp
  restarting _ _ _ h := h.of_frame
  storing _ _ _ _ _ h := h.of_frame rfl rfl rfl rfl
  ended _ _ _ h := h.of_frame
  begun _ _ _ _ _ h := h.of_frame
  disturbed _ h := h.of_frame
  repeated _ _ _ _ h := h.of_frame rfl rfl rfl rfl
  counted s n raw inRange hp hraw h := by
    obtain ⟨_, hu⟩ := h.under hp
    unfold State.trackerTakes
    split
    · rename_i hin
      exact h.moves hp n _ (Tracker.takeInRange_sound (m := s.moment) (hu n) (hraw hin) n)
    · have hcounted : (s.countOutOfRange n).TrackersSound := h.of_frame
      refine hcounted.moves (by simpa using hp) n _ ?_
      simpa [State.profile, State.config] using Tracker.takeOutOfRange_sound (hu n) n
  sweepEnded _ _ _ _ _ _ h := h.of_frame
  freshEnded _ _ _ _ _ _ h := h.of_frame
  freshLeft _ _ _ _ _ _ h := h.of_frame
  ticked _ _ _ _ h := h.of_frame
  swept _ _ _ _ _ h := h.of_frame
  commitPoint _ holder staging _ hp _ _ _ h := h.commitPoint hp staging holder
  expired s n expiry hp ht h := h.moves hp n _ (Tracker.expireHold_sound ((h.under hp).2 n) ht)
  erased _ _ _ _ _ _ h := h.of_frame
  programmed _ _ _ _ _ _ h := h.of_frame
  verified _ _ _ _ _ _ _ h := h.of_frame
  aborted _ _ _ h := h.of_frame
  supply _ _ h := h.of_frame
  pulsed _ _ _ _ _ h := h.of_frame
  reset s _ _ := ⟨by simp [State.beginReset], fun _ ha => (nomatch ha), fun _ n => get_ofFn _ n⟩
  load _ straps hp h := ⟨(State.beginLoad_running_iff straps hp).trans h.running, h.sound, h.before⟩
  startUp s _ cfg source _ _ _ := by
    refine .of_under (cfg := cfg) rfl rfl fun n => ?_
    have ht : (s.startUp cfg source).trackers.get n = blankTracker (startState (cfg.channels.get n)) := get_ofFn _ n
    rw [ht]
    exact blankTracker_sound _ _

/-! ### The terms -/

/-- What a running hub with sound terms has. -/
theorem State.TermsSound.under {s : State} (h : s.TermsSound) (hp : s.phase = .running) :
    s.active = some s.config ∧ s.termsUnder s.config := by
  obtain ⟨cfg, ha⟩ := Option.isSome_iff_exists.1 (h.running.1 hp)
  rw [State.config_of_active ha]
  exact ⟨ha, h.sound cfg ha⟩

theorem State.TermsSound.of_under {t : State} {cfg : Configuration} (hp : t.phase = .running)
    (ha : t.active = some cfg) (h : t.termsUnder cfg) : t.TermsSound where
  running := by simp [hp, ha]
  sound cfg' ha' := by cases ha.symm.trans ha'; exact h
  before hn := absurd (ha.symm.trans hn) (by simp)

/-- An effect on none of what it reads. -/
theorem State.TermsSound.of_frame {s t : State} (h : s.TermsSound) (ht : t.terms = s.terms := by simp)
    (hp : t.phase = s.phase := by simp) (ha : t.active = s.active := by simp) : t.TermsSound where
  running := by rw [hp, ha]; exact h.running
  sound := by rw [ha, ht]; exact h.sound
  before := by rw [ha, ht]; exact h.before

/-- The terms are evaluated at the close of a sweep alone (04 R61). -/
theorem State.TermsSound.placeOrClose {s : State} (h : s.TermsSound) (hp : s.phase = .running)
    (o : Option ChannelId) : (s.placeOrClose o).TermsSound := by
  cases o with
  | some n => exact h.of_frame rfl rfl rfl
  | none =>
    obtain ⟨ha, hu⟩ := h.under hp
    exact .of_under (cfg := s.config) (by simpa using hp) (by simpa using ha)
      (State.evaluateTerms_terms (s := s.setSequencer { s.sequencer with position := none }) ha hu)

theorem State.TermsSound.sequencerActs {s : State} (h : s.TermsSound) (hp : s.phase = .running) (claim : BitVec 32) :
    (s.sequencerActs claim).TermsSound := by
  unfold State.sequencerActs
  split
  · exact h
  · split
    · exact h.placeOrClose hp _
    · exact h

theorem State.TermsSound.beginSweep {s : State} (h : s.TermsSound) (hp : s.phase = .running) :
    s.beginSweep.TermsSound := by
  unfold State.beginSweep
  dsimp only
  have hnumbered : (s.setSequencer { s.sequencer with number := s.sequencer.number + 1 }).TermsSound := h.of_frame
  split
  · rename_i n _
    exact (hnumbered.placeOrClose hp (some n)).of_frame
  · exact hnumbered.placeOrClose hp none

/-- The commit point keeps a term or starts it anew (04 R69). -/
theorem State.TermsSound.commitPoint {s : State} (h : s.TermsSound) (hp : s.phase = .running)
    (staging : Configuration) (holder : Option Port) : (s.committed staging holder).consult.TermsSound := by
  obtain ⟨_, hu⟩ := h.under hp
  refine .of_under (cfg := staging) (by simpa using hp) (by simp) fun k => ?_
  rw [State.consult_terms, State.committed_terms, State.commitSteps_terms]
  split
  · rename_i hsame
    rw [← hsame]
    exact hu k
  · exact blankTerm_sound _

/-- What each effect of the commands does to the terms. -/
theorem termsSound_keeps : Keeps State.TermsSound where
  now _ _ h := h.of_frame
  lease _ _ h := h.of_frame
  hold _ _ _ _ h := h.of_frame
  counters _ _ h := h.of_frame
  opened _ _ _ _ _ _ _ h := h.of_frame rfl rfl rfl
  closed _ _ _ h := h.of_frame rfl rfl rfl
  subscribed _ _ _ _ _ _ _ _ h := h.of_frame
  readOut _ _ _ _ _ _ h := h.of_frame
  acknowledged _ _ _ _ _ _ _ _ h := h.of_frame rfl rfl rfl
  offered _ _ _ h := h.of_frame
  granted _ _ _ _ _ h := h.of_frame rfl rfl rfl
  freed _ _ _ h := h.of_frame
  staged _ _ _ _ _ _ _ _ _ h := h.of_frame
  committing _ _ _ _ _ _ _ h := h.of_frame
  sampled _ _ _ _ _ _ _ _ h := h.of_frame
  unsampled _ _ _ h := h.of_frame
  halted s _ h := by
    unfold State.halted
    split
    · exact h
    · exact h.of_frame
  resumed s _ h := by
    unfold State.resumed
    split
    · exact h
    · exact h.of_frame
  restarting _ _ _ h := h.of_frame
  storing _ _ _ _ _ h := h.of_frame rfl rfl rfl
  ended _ _ _ h := h.of_frame
  begun _ _ _ _ _ h := h.of_frame
  disturbed _ h := h.of_frame
  repeated _ _ _ _ h := h.of_frame rfl rfl rfl
  counted _ _ _ _ _ _ h := h.of_frame
  sweepEnded _ _ claim hp _ _ h := (h.sequencerActs hp claim).of_frame
  freshEnded _ _ _ _ _ _ h := h.of_frame
  freshLeft _ _ _ _ _ _ h := h.of_frame
  ticked _ _ _ _ h := h.of_frame
  swept _ hp _ _ _ h := h.beginSweep hp
  commitPoint _ holder staging _ hp _ _ _ h := h.commitPoint hp staging holder
  expired _ _ _ _ _ h := h.of_frame
  erased _ _ _ _ _ _ h := h.of_frame
  programmed _ _ _ _ _ _ h := h.of_frame
  verified _ _ _ _ _ _ _ h := h.of_frame
  aborted _ _ _ h := h.of_frame
  supply _ _ h := h.of_frame
  pulsed _ _ _ _ _ h := h.of_frame
  reset s _ _ := ⟨by simp [State.beginReset], fun _ ha => (nomatch ha), fun _ k => get_ofFn _ k⟩
  load _ straps hp h := ⟨(State.beginLoad_running_iff straps hp).trans h.running, h.sound, h.before⟩
  startUp s _ cfg source _ _ _ := by
    refine .of_under (cfg := cfg) rfl rfl fun k => ?_
    have ht : (s.startUp cfg source).terms.get k = blankTerm (termStartState (cfg.terms.get k)) := get_ofFn _ k
    rw [ht]
    exact blankTerm_sound _

/-- Settles O57: the configuration with the lease, the trackers and the terms are each kept by every effect that a command
is made of. -/
theorem configurationStaysSound : Obligations.ConfigurationStaysSound := by
  unfold Obligations.ConfigurationStaysSound
  intro s t hstep
  exact ⟨fun h => configurationSound_keeps.step (fun _ _ h => h.of_frame) s t h hstep,
    fun h => trackersSound_keeps.step (fun _ _ h => h.of_frame) s t h hstep,
    fun h => termsSound_keeps.step (fun _ _ h => h.of_frame) s t h hstep⟩

end Sys2Proof.Machine
end

section
/-! PROOFS. What a sweep count does to a tracker, said case by case (02 R22 to R34). -/

namespace Sys2Proof.Machine

/-! ### Out-of-range counts (02 R31 to R33) -/

/-- In FAULT an out-of-range count changes nothing of the record (02 R33). -/
theorem Tracker.takeOutOfRange_fault {t : Tracker} (h : t.state = .fault) (n : ChannelId) :
    t.takeOutOfRange n = (t, none) := by
  simp [Tracker.takeOutOfRange, h]

/-- Elsewhere the run goes up, and the eighth in a row is FAULT (02 R31, R32). -/
theorem Tracker.takeOutOfRange_runs {t : Tracker} (hoff : t.state ≠ .off) (hfault : t.state ≠ .fault) (n : ChannelId) :
    t.takeOutOfRange n =
      if 8 ≤ t.outOfRangeRun + 1 then (t.enterFault, some (.chFault n))
      else ({ t with outOfRangeRun := t.outOfRangeRun + 1 }, none) := by
  unfold Tracker.takeOutOfRange
  split
  · rename_i h; exact absurd h hoff
  · rename_i h; exact absurd h hfault
  all_goals rfl

/-! ### In-range counts (02 R23, rows 3 to 5) -/

theorem ChannelState.isJudged_iff (x : ChannelState) :
    x.isJudged = true ↔ x = .idle ∨ x = .pressPending ∨ x = .active ∨ x = .releasePending := by
  cases x <;> simp [ChannelState.isJudged]

/-- FAULT recovers (02 R34). -/
theorem Tracker.takeInRange_fault {t : Tracker} (h : t.state = .fault) (n : ChannelId) (f : ChannelProfile) (m : Moment)
    (raw : Nat) : t.takeInRange n f m raw =
      ({ ({ t with outOfRangeRun := 0 } : Tracker).rebase raw with reseed := false }, some (.chRecover n)) := by
  simp [Tracker.takeInRange, h]

/-- SEEDING seeds (02 R24). -/
theorem Tracker.takeInRange_seeding {t : Tracker} (h : t.state = .seeding) (n : ChannelId) (f : ChannelProfile)
    (m : Moment) (raw : Nat) : t.takeInRange n f m raw =
      ({ ({ t with outOfRangeRun := 0 } : Tracker).rebase raw with reseed := false }, none) := by
  simp [Tracker.takeInRange, h]

/-- The reseed mark seeds (02 R25). -/
theorem Tracker.takeInRange_reseed {t : Tracker} (hj : t.state.isJudged = true) (h : t.reseed = true) (n : ChannelId)
    (f : ChannelProfile) (m : Moment) (raw : Nat) : t.takeInRange n f m raw =
      ({ ({ t with outOfRangeRun := 0 } : Tracker).rebase raw with reseed := false }, none) := by
  rcases (ChannelState.isJudged_iff _).1 hj with hs | hs | hs | hs <;> simp [Tracker.takeInRange, hs, h]

/-- A channel with a baseline is judged against it, its out-of-range run ended (02 R23, row 5). -/
theorem Tracker.takeInRange_judge {t : Tracker} (hj : t.state.isJudged = true) (h : t.reseed = false) {base : Nat}
    (hb : t.baseline = some base) (n : ChannelId) (f : ChannelProfile) (m : Moment) (raw : Nat) :
    t.takeInRange n f m raw = ({ t with outOfRangeRun := 0 } : Tracker).judge n f m raw base := by
  rcases (ChannelState.isJudged_iff _).1 hj with hs | hs | hs | hs <;> simp [Tracker.takeInRange, hs, h, hb]

/-! ### The low run and the drift (02 R26 to R29) -/

/-- The K-th low count in a row recalibrates (02 R26, R27). -/
theorem Tracker.judge_recalibrates {t : Tracker} {f : ChannelProfile} {raw base : Nat}
    (hlow : (raw : Int) - base < -(f.negativeBand : Int)) (hrun : f.lowRunLimit ≤ t.lowRun + 1) (n : ChannelId)
    (m : Moment) : t.judge n f m raw base = t.recalibrate n raw := by
  simp [Tracker.judge, hlow, hrun]

/-- Any other count sets the low run, and goes on to the drift step and the state step (02 R22, R26). -/
theorem Tracker.judge_goesOn {t : Tracker} {f : ChannelProfile} {raw base : Nat}
    (h : ¬((raw : Int) - base < -(f.negativeBand : Int) ∧ f.lowRunLimit ≤ t.lowRun + 1)) (n : ChannelId) (m : Moment) :
    t.judge n f m raw base =
      (({ t with
            lastRaw := some raw
            lowRun := if (raw : Int) - base < -(f.negativeBand : Int) then t.lowRun + 1 else 0 } : Tracker).driftStep f
          ((raw : Int) - base)).stateStep n f m ((raw : Int) - base) := by
  by_cases hlow : (raw : Int) - base < -(f.negativeBand : Int)
  · have hrun : ¬f.lowRunLimit ≤ t.lowRun + 1 := fun hr => h ⟨hlow, hr⟩
    simp only [Tracker.judge, hlow, hrun, if_true, if_false]
  · simp only [Tracker.judge, hlow, if_false]

/-- The channel drifts by this difference: it is IDLE, drift is on, and the difference lies in −M..N (02 R28). -/
abbrev Tracker.drifts (t : Tracker) (f : ChannelProfile) (d : Int) : Prop :=
  t.state = .idle ∧ 0 < f.driftLimit ∧ ¬d < -(f.negativeBand : Int) ∧ d ≤ f.noiseBand

/-- The drift step of a channel that drifts moves the baseline by one count where the bucket reaches L or −L (02 R29);
that of another channel changes nothing. -/
theorem Tracker.driftStep_eq {t : Tracker} {base : Nat} (hb : t.baseline = some base) (f : ChannelProfile) (d : Int) :
    t.driftStep f d =
      { t with
        baseline := some
          (if t.drifts f d ∧ (f.driftLimit : Int) ≤ t.bucket + d then base + 1
           else if t.drifts f d ∧ t.bucket + d ≤ -(f.driftLimit : Int) then base - 1 else base)
        bucket :=
          if (t.drifts f d ∧ (f.driftLimit : Int) ≤ t.bucket + d) ∨
              (t.drifts f d ∧ t.bucket + d ≤ -(f.driftLimit : Int)) then 0
          else if t.drifts f d then t.bucket + d else t.bucket } := by
  have hband : (t.state = .idle ∧ 0 < f.driftLimit ∧ -(f.negativeBand : Int) ≤ d ∧ d ≤ (f.noiseBand : Int)) ↔
      t.drifts f d := by simp only [Tracker.drifts, Int.not_lt]
  unfold Tracker.driftStep
  simp only [hband]
  by_cases hd : t.drifts f d
  · have htrue := eq_true hd
    by_cases hup : (f.driftLimit : Int) ≤ t.bucket + d
    · simp only [htrue, hup, hb, Option.map_some, true_and, true_or, if_true]
    · by_cases hdown : t.bucket + d ≤ -(f.driftLimit : Int)
      · simp only [htrue, hup, hdown, hb, Option.map_some, true_and, or_true, if_true, if_false]
      · simp only [htrue, hup, hdown, ← hb, true_and, or_self, if_true, if_false]
  · simp only [eq_false hd, ← hb, false_and, or_self, if_false]

/-- The active pair is released by a recalibration, and its timer stops (02 R27). -/
theorem Tracker.recalibrate_active {t : Tracker} (h : t.state.isActive = true) (n : ChannelId) (raw : Nat) :
    t.recalibrate n raw = ({ t.rebase raw with holdTimer := .stopped }, some (.chRelease n .idle .recal)) := by
  simp [Tracker.recalibrate, h]

theorem Tracker.recalibrate_inactive {t : Tracker} (h : t.state.isActive = false) (n : ChannelId) (raw : Nat) :
    t.recalibrate n raw = (t.rebase raw, some (.chRecal n)) := by
  simp [Tracker.recalibrate, h]

/-- Settles O47, a row of 02 R23 each. -/
theorem trackerTakesACount : Obligations.TrackerTakesACount := by
  unfold Obligations.TrackerTakesACount
  intro t n f m
  refine ⟨fun h => Tracker.takeOutOfRange_fault h n, fun hoff hfault hrun => ?_, fun hoff hfault hrun => ?_,
    fun raw => ?_⟩
  · rw [Tracker.takeOutOfRange_runs hoff hfault, if_neg (Nat.not_le.2 hrun)]
  · rw [Tracker.takeOutOfRange_runs hoff hfault, if_pos hrun]
    rfl
  · intro based judged
    refine ⟨fun h => Tracker.takeInRange_fault h n f m raw, fun h => Tracker.takeInRange_seeding h n f m raw,
      fun hj hr => Tracker.takeInRange_reseed ((ChannelState.isJudged_iff _).2 hj) hr n f m raw, ?_⟩
    intro base hj hr hb d low
    rw [Tracker.takeInRange_judge ((ChannelState.isJudged_iff _).2 hj) hr hb]
    refine ⟨fun hlow hrun hs => ?_, fun hlow hrun hs => ?_, fun hnot => ?_⟩
    · rw [Tracker.judge_recalibrates (t := { t with outOfRangeRun := 0 }) hlow hrun]
      exact Tracker.recalibrate_inactive (by rcases hs with h | h <;> simp [h, ChannelState.isActive]) n raw
    · rw [Tracker.judge_recalibrates (t := { t with outOfRangeRun := 0 }) hlow hrun]
      exact Tracker.recalibrate_active (t := { t with outOfRangeRun := 0 }) ((ChannelState.isActive_iff _).2 hs) n raw
    · rw [Tracker.judge_goesOn (t := { t with outOfRangeRun := 0 }) hnot]
      refine congrArg (fun x : Tracker => x.stateStep n f m d) (Tracker.driftStep_eq ?_ f d)
      exact hb

end Sys2Proof.Machine
end

section
/-! PROOFS. The state step row by row, debouncing over counts in a row, and the expiry of the hold limit (03 R39 to R47). -/

namespace Sys2Proof.Machine

/-! ### The state step (03 R39 to R42) -/

/-- A difference that qualifies for a press (03 R39). -/
abbrev QualifiesForPress (f : ChannelProfile) (d : Int) : Prop := (f.touch : Int) + f.hysteresis ≤ d

/-- A difference that qualifies for a release (03 R39). -/
abbrev QualifiesForRelease (f : ChannelProfile) (d : Int) : Prop := d ≤ (f.touch : Int) - f.hysteresis

section Rows

variable {t : Tracker} (n : ChannelId) (f : ChannelProfile) (m : Moment) (d : Int)

theorem Tracker.stateStep_idle (h : t.state = .idle) : t.stateStep n f m d =
    if QualifiesForPress f d then
      if f.pressDebounce ≤ 1 then (t.press f m, some (.chPress n))
      else ({ t with state := .pressPending, debounce := some 1 }, none)
    else (t, none) := by
  simp [Tracker.stateStep, h]

theorem Tracker.stateStep_pressPending (h : t.state = .pressPending) : t.stateStep n f m d =
    if QualifiesForPress f d then
      if f.pressDebounce ≤ t.debounce.getD 0 + 1 then (t.press f m, some (.chPress n))
      else ({ t with debounce := some (t.debounce.getD 0 + 1) }, none)
    else ({ t with state := .idle, debounce := none }, none) := by
  simp [Tracker.stateStep, h]

theorem Tracker.stateStep_active (h : t.state = .active) : t.stateStep n f m d =
    if QualifiesForRelease f d then
      if f.releaseDebounce ≤ 1 then (t.release, some (.chRelease n .idle .normal))
      else ({ t with state := .releasePending, debounce := some 1 }, none)
    else (t, none) := by
  simp [Tracker.stateStep, h]

theorem Tracker.stateStep_releasePending (h : t.state = .releasePending) : t.stateStep n f m d =
    if QualifiesForRelease f d then
      if f.releaseDebounce ≤ t.debounce.getD 0 + 1 then (t.release, some (.chRelease n .idle .normal))
      else ({ t with debounce := some (t.debounce.getD 0 + 1) }, none)
    else ({ t with state := .active, debounce := none }, none) := by
  simp [Tracker.stateStep, h]

/-- The states that the step is not taken in (log 19). -/
theorem Tracker.stateStep_unjudged (h : t.state = .off ∨ t.state = .seeding ∨ t.state = .fault) :
    t.stateStep n f m d = (t, none) := by
  rcases h with h | h | h <;> simp [Tracker.stateStep, h]

end Rows

/-- The record that a press leaves, its timer written out (03 R40, R43, R44). -/
theorem Tracker.press_eq (t : Tracker) (f : ChannelProfile) (m : Moment) : t.press f m =
    { t with
      state := .active
      debounce := none
      activeSince := some m.number
      holdTimer :=
        if f.holdLimit = 0 then .stopped
        else if m.run = .run then .running (m.now + 400000 * f.holdLimit) else .paused (400000 * f.holdLimit) } := by
  simp only [Tracker.press, startHoldTimer_eq, ne_eq, ite_not]

/-! ### Debouncing: qualifying counts in a row -/

/-- The state step of each count in turn, and the reports they make. -/
def Tracker.stateSteps (t : Tracker) (n : ChannelId) (f : ChannelProfile) (counts : List (Moment × Int)) :
    Tracker × List Report :=
  counts.foldl (fun x c => ((x.1.stateStep n f c.1 c.2).1, x.2 ++ (x.1.stateStep n f c.1 c.2).2.toList)) (t, [])

theorem Tracker.stateSteps_append_singleton (t : Tracker) (n : ChannelId) (f : ChannelProfile)
    (earlier : List (Moment × Int)) (last : Moment × Int) : t.stateSteps n f (earlier ++ [last]) =
      let x := t.stateSteps n f earlier
      ((x.1.stateStep n f last.1 last.2).1, x.2 ++ (x.1.stateStep n f last.1 last.2).2.toList) := by
  simp only [Tracker.stateSteps, List.foldl_append, List.foldl_cons, List.foldl_nil]

/-- `counted k` is the record after `k` qualifying counts in a row: one more makes it `counted (k + 1)` without a report, or
at the limit the record entered at that count's moment, with the report. -/
def Debounces (n : ChannelId) (f : ChannelProfile) (qualifies : Int → Prop) (limit : Nat) (counted : Nat → Tracker)
    (entered : Moment → Tracker) (event : Report) : Prop :=
  ∀ k m d, qualifies d → (counted k).stateStep n f m d =
    if limit ≤ k + 1 then (entered m, some event) else (counted (k + 1), none)

section Debounced

variable {n : ChannelId} {f : ChannelProfile} {qualifies : Int → Prop} {limit : Nat} {counted : Nat → Tracker}
  {entered : Moment → Tracker} {event : Report}

/-- Fewer counts in a row than the limit are counted, and make no report. -/
theorem Debounces.counts (h : Debounces n f qualifies limit counted entered event) (counts : List (Moment × Int))
    (hq : ∀ c ∈ counts, qualifies c.2) (hlen : counts.length < limit) :
    (counted 0).stateSteps n f counts = (counted counts.length, []) := by
  induction counts using List.reverseRecOn with
  | nil => rfl
  | append_singleton earlier last ih =>
    rw [List.length_append, List.length_singleton] at hlen ⊢
    have hearlier := ih (fun c hc => hq c (List.mem_append_left _ hc)) (Nat.lt_of_succ_lt hlen)
    have hlast := h earlier.length last.1 last.2 (hq last List.mem_concat_self)
    rw [if_neg (Nat.not_le.2 hlen)] at hlast
    simp only [Tracker.stateSteps_append_singleton, hearlier, hlast, Option.toList_none, List.append_nil]

/-- The count that reaches the limit enters the new state at its own moment, with the one report. -/
theorem Debounces.enters (h : Debounces n f qualifies limit counted entered event) (earlier : List (Moment × Int))
    (last : Moment × Int) (hq : ∀ c ∈ earlier ++ [last], qualifies c.2) (hlen : earlier.length + 1 = limit) :
    (counted 0).stateSteps n f (earlier ++ [last]) = (entered last.1, [event]) := by
  have hearlier := h.counts earlier (fun c hc => hq c (List.mem_append_left _ hc)) (Nat.lt_of_succ_le hlen.le)
  have hlast := h earlier.length last.1 last.2 (hq last List.mem_concat_self)
  rw [if_pos hlen.ge] at hlast
  simp only [Tracker.stateSteps_append_singleton, hearlier, hlast, Option.toList_some, List.nil_append]

end Debounced

/-- The record of an IDLE channel after `k` press-qualifying counts in a row, `k` below P. -/
def Tracker.pressCounted (t : Tracker) : Nat → Tracker
  | 0 => t
  | k + 1 => { t with state := .pressPending, debounce := some (k + 1) }

/-- The record of an ACTIVE channel after `k` release-qualifying counts in a row, `k` below Q. -/
def Tracker.releaseCounted (t : Tracker) : Nat → Tracker
  | 0 => t
  | k + 1 => { t with state := .releasePending, debounce := some (k + 1) }

/-- A press is debounced by P (03 R40). -/
theorem Tracker.press_debounces {t : Tracker} (h : t.state = .idle) (n : ChannelId) (f : ChannelProfile) :
    Debounces n f (QualifiesForPress f) f.pressDebounce t.pressCounted (t.press f) (.chPress n) := by
  intro k m d hd
  cases k with
  | zero =>
    rw [Tracker.pressCounted, Tracker.stateStep_idle n f m d h, if_pos hd]
    rfl
  | succ k =>
    rw [Tracker.pressCounted, Tracker.stateStep_pressPending n f m d rfl, if_pos hd]
    rfl

/-- A release is debounced by Q (03 R41). -/
theorem Tracker.release_debounces {t : Tracker} (h : t.state = .active) (n : ChannelId) (f : ChannelProfile) :
    Debounces n f (QualifiesForRelease f) f.releaseDebounce t.releaseCounted (fun _ => t.release) (.chRelease n .idle .normal) := by
  intro k m d hd
  cases k with
  | zero =>
    rw [Tracker.releaseCounted, Tracker.stateStep_active n f m d h, if_pos hd]
    rfl
  | succ k =>
    rw [Tracker.releaseCounted, Tracker.stateStep_releasePending n f m d rfl, if_pos hd]
    rfl

/-- Settles O48: a row each, and the counts in a row by induction over the list. -/
theorem stateStep : Obligations.StateStep := by
  unfold Obligations.StateStep
  intro t n f m pressing releasing pressed released steps
  have hpressed (m : Moment) : t.press f m = pressed m := t.press_eq f m
  refine ⟨fun h d => t.stateStep_unjudged n f m d h, fun d h hd => ?_, fun d h hd => ?_, fun d h hd => ?_,
    fun d h hd => ?_, fun d count h hcount hd => ?_, fun d count h hcount hd => ?_, fun earlier last h hq => ?_,
    fun earlier last h hq => ?_⟩
  · rw [Tracker.stateStep_idle n f m d h, if_neg hd]
  · rw [Tracker.stateStep_active n f m d h, if_neg hd]
  · rw [Tracker.stateStep_pressPending n f m d h, if_neg hd]
  · rw [Tracker.stateStep_releasePending n f m d h, if_neg hd]
  · rw [Tracker.stateStep_pressPending n f m d h, if_pos hd, hcount, hpressed]
    rfl
  · rw [Tracker.stateStep_releasePending n f m d h, if_pos hd, hcount]
    rfl
  · have hdebounces := Tracker.press_debounces h n f
    refine ⟨fun hlen => ?_, fun hlen => ?_⟩
    · have hcounts := hdebounces.counts (earlier ++ [last]) hq (by simpa using hlen)
      rwa [List.length_append] at hcounts
    · rw [← hpressed]
      exact hdebounces.enters earlier last hq hlen
  · have hdebounces := Tracker.release_debounces h n f
    refine ⟨fun hlen => ?_, fun hlen => hdebounces.enters earlier last hq hlen⟩
    have hcounts := hdebounces.counts (earlier ++ [last]) hq (by simpa using hlen)
    rwa [List.length_append] at hcounts

/-! ### HOLD_LIMIT_EXPIRY (03 R46, R47) -/

/-- Settles O49, a state of the timer each. -/
theorem holdLimitExpiry : Obligations.HoldLimitExpiry := by
  unfold Obligations.HoldLimitExpiry
  intro s n hp
  simp only [exec, execHoldLimitExpiry, State.whileRunning_running hp]
  refine ⟨fun expiry hrunning => ?_, fun hnot => ?_⟩
  · rw [hrunning]
    exact congrArg Host.Outcome.next (State.trackerMoves_eq _ _ _)
  · cases htimer : (s.trackers.get n).holdTimer with
    | running expiry => exact absurd htimer (hnot expiry)
    | stopped => rfl
    | paused remaining => rfl

end Sys2Proof.Machine
end

section
/-! PROOFS. Commit validation: the checks stand in the order of their places, so the first that fails is the least (08 R146;
04 R57). -/

namespace Sys2Proof.Machine

/-! ### The first check that fails -/

/-- Where the checks stand in the strict order of a key, the first that fails is the one of least key among those that fail. -/
theorem firstFailing_eq_some_iff {α : Type} (key : α → Nat) {l : List (α × Bool)}
    (hl : l.Pairwise fun x y => key x.1 < key y.1) (a : α) :
    firstFailing l = some a ↔ (a, false) ∈ l ∧ ∀ b, (b, false) ∈ l → key a ≤ key b := by
  induction l with
  | nil => simp [firstFailing]
  | cons x rest ih =>
    obtain ⟨name, holds⟩ := x
    obtain ⟨hfirst, hrest⟩ := List.pairwise_cons.1 hl
    cases holds with
    | true => simpa [firstFailing] using ih hrest
    | false =>
      simp only [firstFailing, Bool.false_eq_true, if_false, Option.some.injEq]
      constructor
      · rintro rfl
        refine ⟨List.mem_cons_self, fun b hb => ?_⟩
        rcases List.mem_cons.1 hb with heq | hb
        · cases heq; exact Nat.le_refl _
        · exact (hfirst _ hb).le
      · rintro ⟨ha, hleast⟩
        rcases List.mem_cons.1 ha with heq | ha
        · cases heq; rfl
        · exact absurd (hleast name List.mem_cons_self) (Nat.not_le.2 (hfirst _ ha))

/-! ### The checks of one item -/

/-- The checks of an item in the order of the table of 08 R146; the hub settings and the port profiles have none. -/
def itemChecks (cfg : Configuration) : Item → List (Constraint × Bool)
  | .channel n => channelConstraints (cfg.channels.get n)
  | .scanList => scanListConstraints cfg.scanList
  | .term k => termConstraints k (cfg.terms.get k)
  | .hub | .port _ => []

theorem mem_channelConstraints (f : ChannelProfile) (c : Constraint) : (c, false) ∈ channelConstraints f ↔
    match c with
    | .chHysteresis => f.touch ≤ f.hysteresis
    | .chNoiseBand => f.touch < f.noiseBand + f.hysteresis + 1
    | .chRange => 2 ^ f.resolution < f.touch + f.hysteresis + 3
    | _ => False := by
  cases c <;> simp [channelConstraints]

theorem between_eq_false (lo n hi : Nat) : between lo n hi = false ↔ n < lo ∨ hi < n := by
  simp only [between, Bool.and_eq_false_iff, decide_eq_false_iff_not, Nat.not_le]

theorem noRepeat_iff_nodup {α : Type} [DecidableEq α] (l : List α) : noRepeat l = true ↔ l.Nodup := by
  induction l with
  | nil => simp [noRepeat]
  | cons x xs ih => simp [noRepeat, ih]

theorem noRepeat_eq_false {α : Type} [DecidableEq α] (l : List α) : noRepeat l = false ↔ ¬l.Nodup := by
  rw [← noRepeat_iff_nodup, Bool.not_eq_true]

theorem mem_scanListConstraints (l : List Nat) (c : Constraint) : (c, false) ∈ scanListConstraints l ↔
    match c with
    | .listLength => l.length = 0 ∨ 24 < l.length
    | .listDuplicate => ¬l.Nodup
    | .listEntry => ∃ n ∈ l, 24 ≤ n
    | _ => False := by
  cases c <;> simp [scanListConstraints, between_eq_false, noRepeat_eq_false, eq_comm (a := false)]

/-- An input is out of order exactly when it is a term that is not of lower index (04 R57). -/
theorem exists_input_out_of_order (k : TermId) (inputs : List Source) :
    (∃ source ∈ inputs, inputOrdered k source = false) ↔ ∃ j : TermId, Source.term j ∈ inputs ∧ k ≤ j := by
  constructor
  · rintro ⟨source, hmem, hout⟩
    cases source with
    | channel n => exact absurd hout.symm Bool.false_ne_true
    | term j => exact ⟨j, hmem, by simpa [inputOrdered] using hout⟩
  · rintro ⟨j, hmem, hle⟩
    exact ⟨.term j, hmem, by simpa [inputOrdered] using hle⟩

theorem mem_termConstraints (k : TermId) (d : TermDefinition) (c : Constraint) : (c, false) ∈ termConstraints k d ↔
    match c with
    | .termInputCount => d.enabled = true ∧ (d.inputs.length = 0 ∨ 4 < d.inputs.length)
    | .termDuplicate => d.enabled = true ∧ ¬d.inputs.Nodup
    | .termOrder => d.enabled = true ∧ ∃ j : TermId, Source.term j ∈ d.inputs ∧ k.val ≤ j.val
    | .termWindow => d.enabled = true ∧ 0 < d.window ∧ (d.function ≠ .all ∨ d.inputs.length < 2)
    | _ => False := by
  unfold termConstraints
  cases hd : d.enabled with
  | false => cases c <;> simp
  | true =>
    cases c <;> simp [between_eq_false, noRepeat_eq_false, exists_input_out_of_order, eq_comm (a := false),
      Nat.pos_iff_ne_zero, imp_iff_not_or]

/-! ### The order of the checks -/

/-- The items that have checks, in the order of 08 R146. -/
def checkedItems : List Item := ChannelId.all.map Item.channel ++ [Item.scanList] ++ TermId.all.map Item.term

theorem constraintChecks_eq (cfg : Configuration) : constraintChecks cfg =
    checkedItems.flatMap fun item => (itemChecks cfg item).map fun c => ((item, c.1), c.2) := by
  simp [constraintChecks, checkedItems, itemChecks, List.flatMap_map]

theorem mem_constraintChecks (cfg : Configuration) (item : Item) (c : Constraint) :
    ((item, c), false) ∈ constraintChecks cfg ↔ (c, false) ∈ itemChecks cfg item := by
  have hchecked : (c, false) ∈ itemChecks cfg item → item ∈ checkedItems := by
    cases item <;> simp [checkedItems, itemChecks, ChannelId.all, TermId.all]
  simpa [constraintChecks_eq] using hchecked

/-- The place of an item in the order channels, scan list, terms. -/
def itemPlace : Item → Nat
  | .channel n => n.val
  | .scanList => 24
  | .term k => 25 + k.val
  | .hub | .port _ => 41

/-- The place of a check: that of its item and, within it, the row of the table. -/
def checkPlace (x : Item × Constraint) : Nat := 16 * itemPlace x.1 + (constraintCode x.2).toNat

theorem constraintCode_lt (c : Constraint) : (constraintCode c).toNat < 16 := by
  cases c <;> decide

theorem checkPlace_lt_of_item {item item' : Item} (h : itemPlace item < itemPlace item') (c c' : Constraint) :
    checkPlace (item, c) < checkPlace (item', c') := by
  have hc := constraintCode_lt c
  simp only [checkPlace]
  omega

theorem checkedItems_pairwise : checkedItems.Pairwise fun x y => itemPlace x < itemPlace y := by decide

/-- An item's checks stand in the order of the table. -/
theorem itemChecks_pairwise (cfg : Configuration) (item : Item) :
    (itemChecks cfg item).Pairwise fun x y => (constraintCode x.1).toNat < (constraintCode y.1).toNat := by
  cases item with
  | channel n => simp [itemChecks, channelConstraints, constraintCode]
  | scanList => simp [itemChecks, scanListConstraints, constraintCode]
  | term k =>
    simp only [itemChecks, termConstraints]
    split <;> simp [constraintCode]
  | hub | port p => exact List.Pairwise.nil

theorem constraintChecks_pairwise (cfg : Configuration) :
    (constraintChecks cfg).Pairwise fun x y => checkPlace x.1 < checkPlace y.1 := by
  rw [constraintChecks_eq, List.pairwise_flatMap]
  constructor
  · intro item _
    rw [List.pairwise_map]
    exact (itemChecks_pairwise cfg item).imp fun h => Nat.add_lt_add_left h _
  · refine checkedItems_pairwise.imp fun hlt x hx y hy => ?_
    obtain ⟨c, _, rfl⟩ := List.mem_map.1 hx
    obtain ⟨c', _, rfl⟩ := List.mem_map.1 hy
    exact checkPlace_lt_of_item hlt c.1 c'.1

/-- A configuration passes exactly when no check of it fails (08 R146). -/
theorem firstViolation_eq_none_iff (cfg : Configuration) :
    firstViolation cfg = none ↔ ∀ item c, (c, false) ∉ itemChecks cfg item := by
  rw [firstViolation, firstFailing_eq_none]
  constructor
  · intro h item c hc
    exact absurd (h _ ((mem_constraintChecks cfg item c).2 hc)) Bool.false_ne_true
  · rintro h ⟨⟨item, c⟩, holds⟩ hx
    cases holds with
    | true => rfl
    | false => exact absurd ((mem_constraintChecks cfg item c).1 hx) (h item c)

/-- What is reported is the failing check of least place (08 R146). -/
theorem firstViolation_eq_some_iff (cfg : Configuration) (item : Item) (c : Constraint) :
    firstViolation cfg = some (item, c) ↔ (c, false) ∈ itemChecks cfg item ∧
      ∀ item' c', (c', false) ∈ itemChecks cfg item' → checkPlace (item, c) ≤ checkPlace (item', c') := by
  rw [firstViolation, firstFailing_eq_some_iff checkPlace (constraintChecks_pairwise cfg), Prod.forall]
  simp only [mem_constraintChecks]

/-- Settles O32: an item's failing checks are the constraints it fails, and the checks stand in the order of their places. -/
theorem commitValidation : Obligations.CommitValidation := by
  unfold Obligations.CommitValidation
  intro cfg fails place
  have hfails (item : Item) (c : Constraint) : (c, false) ∈ itemChecks cfg item ↔ fails item c := by
    cases item with
    | channel n => exact (mem_channelConstraints _ c).trans (by cases c <;> rfl)
    | scanList => exact (mem_scanListConstraints _ c).trans (by cases c <;> rfl)
    | term k => exact (mem_termConstraints k _ c).trans (by cases c <;> rfl)
    | hub | port p => exact iff_of_false List.not_mem_nil (by cases c <;> exact id)
  have hplace (item : Item) (c : Constraint) : checkPlace (item, c) = place item c := by cases item <;> rfl
  simp only [← hfails, ← hplace]
  exact ⟨firstViolation_eq_none_iff cfg, firstViolation_eq_some_iff cfg⟩

end Sys2Proof.Machine
end

section
/-! PROOFS. Term evaluation at a close: what a term reads, the arrival window, and the table of states row by row (04 R59 to
R66). -/

namespace Sys2Proof.Machine

/-! ### The arrival window (04 R63, R66) -/

theorem foldl_max_le_iff (l : List Nat) (x b : Nat) : l.foldl max x ≤ b ↔ ∀ y ∈ x :: l, y ≤ b := by
  induction l generalizing x with
  | nil => simp
  | cons z zs ih => simp [ih, and_assoc]

theorem le_foldl_min_iff (l : List Nat) (x b : Nat) : b ≤ l.foldl min x ↔ ∀ y ∈ x :: l, b ≤ y := by
  induction l generalizing x with
  | nil => simp
  | cons z zs ih => simp [ih, and_assoc]

/-- The largest less the smallest is bounded exactly where every two of the list are that close. -/
theorem spread_le_iff (l : List Nat) (w : Nat) : spread l ≤ w ↔ ∀ a ∈ l, ∀ b ∈ l, a ≤ b + w := by
  cases l with
  | nil => simp [spread]
  | cons x xs =>
    have hmax := foldl_max_le_iff xs x (w + xs.foldl min x)
    have hmin (a : Nat) := le_foldl_min_iff xs x (a - w)
    rw [spread, Nat.sub_le_iff_le_add, hmax]
    refine forall₂_congr fun a _ => ?_
    rw [Nat.add_comm, ← Nat.sub_le_iff_le_add, hmin]
    exact forall₂_congr fun b _ => Nat.sub_le_iff_le_add

theorem windowMet_iff (window : Nat) (number : BitVec 32) (stamps : List (BitVec 32)) :
    windowMet window number stamps = true ↔ window = 0 ∨
      ∀ x ∈ stamps, ∀ y ∈ stamps, (number - x).toNat ≤ (number - y).toNat + window := by
  simp only [windowMet, Bool.or_eq_true, decide_eq_true_eq, spread_le_iff, ages, List.forall_mem_map]

/-! ### The table of states (04 R63, R64) -/

section Rows

variable (r : TermRecord) (k : TermId) (d : TermDefinition) (number : BitVec 32) (stamps : List (BitVec 32))

theorem TermRecord.step_false (h : r.state = .false) : r.step k d number stamps =
    if satisfied d.function stamps.length d.inputs.length then
      if windowMet d.window number stamps then
        if d.holdSweeps = 0 then (enterTrue number, some (.tmTrue k))
        else ({ r with state := .arming, arming := some 1 }, none)
      else ({ r with state := .blocked }, some (.tmBlocked k))
    else (r, none) := by
  simp only [TermRecord.step, h]

theorem TermRecord.step_arming {count : Nat} (h : r.state = .arming) (hcount : r.arming = some count) :
    r.step k d number stamps =
      if satisfied d.function stamps.length d.inputs.length then
        if count + 1 = d.holdSweeps + 1 then (enterTrue number, some (.tmTrue k))
        else ({ r with arming := some (count + 1) }, none)
      else ({ r with state := .false, arming := none }, none) := by
  simp only [TermRecord.step, h, hcount, Option.getD_some]

theorem TermRecord.step_true (h : r.state = .true) : r.step k d number stamps =
    if satisfied d.function stamps.length d.inputs.length then (r, none)
    else ({ r with state := .false, trueSince := none }, some (.tmFalse k .false .normal)) := by
  simp only [TermRecord.step, h]

theorem TermRecord.step_blocked (h : r.state = .blocked) : r.step k d number stamps =
    if stamps = [] then ({ r with state := .false }, some (.tmFalse k .false .unblock)) else (r, none) := by
  simp only [TermRecord.step, h, List.isEmpty_iff]

end Rows

/-! ### One term at a close (04 R59, R61, R65) -/

theorem State.evaluateTerm_disabled {s : State} {k : TermId} (h : (s.config.terms.get k).enabled = false) :
    s.evaluateTerm k = s := by
  simp [State.evaluateTerm, h]

theorem State.evaluateTerm_enabled {s : State} {k : TermId} (h : (s.config.terms.get k).enabled = true) :
    s.evaluateTerm k = s.termMoves k ((s.terms.get k).step k (s.config.terms.get k) s.sequencer.number
      (s.activeStamps (s.config.terms.get k).inputs)) := by
  simp [State.evaluateTerm, h]

/-- A channel reads active in ACTIVE and RELEASE_PENDING (03 R38). -/
theorem State.inputStamp_channel (s : State) (n : ChannelId) : s.inputStamp (.channel n) =
    if (s.trackers.get n).state = .active ∨ (s.trackers.get n).state = .releasePending
    then some ((s.trackers.get n).activeSince.getD 0) else none := by
  simp only [State.inputStamp, ChannelState.isActive_iff]

/-- Settles O50: the inputs and the window are those of the rules, and each row of the table is the step's of its state. -/
theorem termEvaluation : Obligations.TermEvaluation := by
  unfold Obligations.TermEvaluation
  refine ⟨fun _ => rfl, fun s k => ?_⟩
  intro d r number stamps satisfies inWindow becomes turnsTrue
  have hstamps : s.activeStamps d.inputs = stamps := by
    refine congrArg (fun f => d.inputs.filterMap f) (funext fun source => ?_)
    cases source with
    | channel n => exact s.inputStamp_channel n
    | term j => rfl
  have hsat : satisfied d.function stamps.length d.inputs.length = true ↔ satisfies := by
    simp only [satisfied, satisfies]
    cases d.function <;> exact decide_eq_true_iff
  have hwindow : windowMet d.window number stamps = true ↔ inWindow := windowMet_iff _ _ _
  refine ⟨State.evaluateTerm_disabled, fun henabled => ?_⟩
  have hmoves {r' : TermRecord} {event : Option Report} (h : r.step k d number stamps = (r', event)) :
      becomes r' event := by
    rw [← hstamps] at h
    refine (State.evaluateTerm_enabled henabled).trans ((congrArg (s.termMoves k) h).trans ?_)
    cases event <;> rfl
  clear_value becomes
  refine ⟨fun hr => ?_, fun count hr hcount => ?_, fun hr => ?_, fun hr => ?_⟩
  · have hstep := TermRecord.step_false r k d number stamps hr
    refine ⟨fun hs => hmoves ?_, fun hs hw => hmoves ?_, fun hs hw hhold => hmoves ?_, fun hs hw hhold => hmoves ?_⟩
    · rw [hstep, if_neg (mt hsat.1 hs)]
    · rw [hstep, if_pos (hsat.2 hs), if_neg (mt hwindow.1 hw)]
    · rw [hstep, if_pos (hsat.2 hs), if_pos (hwindow.2 hw), if_pos hhold]
      rfl
    · rw [hstep, if_pos (hsat.2 hs), if_pos (hwindow.2 hw), if_neg (Nat.ne_of_gt hhold)]
  · have hstep := TermRecord.step_arming r k d number stamps hr hcount
    refine ⟨fun hs => hmoves ?_, fun hs hlast => hmoves ?_, fun hs hlast => hmoves ?_⟩
    · rw [hstep, if_neg (mt hsat.1 hs)]
    · rw [hstep, if_pos (hsat.2 hs), if_pos hlast]
      rfl
    · rw [hstep, if_pos (hsat.2 hs), if_neg hlast]
  · have hstep := TermRecord.step_true r k d number stamps hr
    exact ⟨fun hs => hmoves (hstep.trans (if_pos (hsat.2 hs))), fun hs => hmoves (hstep.trans (if_neg (mt hsat.1 hs)))⟩
  · have hstep := TermRecord.step_blocked r k d number stamps hr
    exact ⟨fun hactive => hmoves (hstep.trans (if_neg hactive)), fun hnone => hmoves (hstep.trans (if_pos hnone))⟩

end Sys2Proof.Machine
end

section
/-! PROOFS. A staged write from the holder, and SET_TERM (04 R56; 08 R140; 10 R179, R180). -/

namespace Sys2Proof.Machine

/-! ### A staged write (08 R131, R140) -/

theorem State.took_lease_held {s : State} {p : Port} {staging : Configuration} {dirty : Bool} {expiry : Nat}
    (hl : s.lease = .held p staging dirty expiry) :
    (s.took p).lease = .held p staging dirty (s.now + 4000 * (100 * s.config.hub.leaseSteps)) := by
  simp [State.took, State.leaseAfter, hl]

/-- A staged write of a request taken from the holder: staging is what was written, answered with the dirty indication. -/
theorem State.took_stagedWrite {s : State} {p : Port} {staging : Configuration} {dirty : Bool} {expiry : Nat}
    (hl : s.lease = .held p staging dirty expiry) (f : Configuration → Configuration) :
    (s.took p).stagedWrite f =
      (s.stagedAs p (f staging), ⟨.ok, [if f staging = s.config then 0x00 else 0x01]⟩) := by
  have hstage : (s.took p).stage f = s.stagedAs p (f staging) := by
    simp only [State.stage, State.took_lease_held hl]
    rfl
  simp only [State.stagedWrite, hstage, State.stagedAs, Lease.dirty, yesNo, decide_eq_true_eq, ne_eq, ite_not]

/-! ### The field-range gate (10 R179) -/

/-- The gate names the offset of the first field out of range. -/
theorem firstBad_eq_find (fields : List (Nat × Bool)) :
    firstBad fields = (fields.find? fun x => !x.2).map Prod.fst := by
  induction fields with
  | nil => rfl
  | cons x rest ih =>
    obtain ⟨offset, inRange⟩ := x
    cases inRange <;> simp [firstBad, ih]

/-- A staged write of the holder behind the field-range gate (08 R140): the first field out of range is named and nothing is
written; with every field in range staging is what was written. -/
theorem State.request_stagedWrite {s : State} {p : Port} {tag : Byte} {staging : Configuration} {dirty : Bool} {expiry : Nat}
    (hs : s.serves p) (hl : s.lease = .held p staging dirty expiry) (fields : List (Nat × Bool))
    (f : Configuration → Configuration) :
    (∀ x, fields.find? (fun x => !x.2) = some x →
      s.request p tag .holder (rangeGate fields fun s => s.stagedWrite f) =
        .next ((s.took p).holding p .badValue tag [BitVec.ofNat 8 x.1])) ∧
    (fields.find? (fun x => !x.2) = none →
      s.request p tag .holder (rangeGate fields fun s => s.stagedWrite f) =
        .next ((s.stagedAs p (f staging)).holding p .ok tag [if f staging = s.config then 0x00 else 0x01])) := by
  rw [State.request_holder ⟨hs, staging, dirty, expiry, hl⟩]
  simp only [rangeGate, firstBad_eq_find]
  refine ⟨fun x hx => ?_, fun hnone => ?_⟩
  · rw [hx]
    rfl
  · rw [hnone]
    simp only [Option.map_none, State.took_stagedWrite hl]

/-- The entries of a list stand at the offsets from the first one's on. -/
theorem offsetFields_eq_zipIdx (first : Nat) (ok : Byte → Bool) (l : List Byte) (k : Nat) :
    offsetFields (first + k) ok l = (l.zipIdx k).map fun x => (first + x.2, ok x.1) := by
  induction l generalizing k with
  | nil => rfl
  | cons b bs ih => simp only [offsetFields, List.zipIdx_cons, List.map_cons, Nat.add_assoc, ih]

/-! ### The fields of SET_TERM (10 R179, R180) -/

theorem bool?_isSome (b : Byte) : (bool? b).isSome = decide (b.toNat ≤ 1) := by
  revert b; decide

theorem bool?_getD (b : Byte) : (bool? b).getD false = decide (b = 1) := by
  revert b; decide

theorem function?_isSome (b : Byte) : (function? b).isSome = decide (b.toNat ≤ 3) := by
  revert b; decide

theorem function?_getD {b : Byte} (h : (function? b).isSome = true) : (function? b).getD .any =
    if b = 0 then .any else if b = 1 then .all else if b = 2 then .one else .none := by
  revert b; decide

/-- An input names a channel 00h..17h or a term 20h..2Fh. -/
theorem source?_isSome (b : Byte) :
    (source? b).isSome = decide (b.toNat < 24 ∨ (0x20 ≤ b.toNat ∧ b.toNat < 0x30)) := by
  revert b; decide

theorem source?_eq_some {b : Byte} (h : (source? b).isSome = true) : source? b =
    some (if b.toNat < 24 then .channel (Fin.ofNat 24 b.toNat) else .term (Fin.ofNat 16 (b.toNat - 0x20))) := by
  revert b; decide

theorem term?_of_val {n : Nat} {k : TermId} (h : n = k.val) : term? n = some k := by
  subst h
  simp [term?]

theorem term?_eq_none {n : Nat} (h : ¬n < 16) : term? n = none := by
  simp [term?, h]

theorem between_eq_decide (lo n hi : Nat) : between lo n hi = decide (lo ≤ n ∧ n ≤ hi) :=
  (Bool.decide_and _ _).symm

/-- The fields of a term definition against their ranges, in the order of 04 R56. -/
theorem termFields_eq (d : TermParams) : termFields d =
    [(1, decide (d.enabled.toNat ≤ 1)), (2, decide (d.function.toNat ≤ 3)),
     (5, decide (1 ≤ d.inputs.length ∧ d.inputs.length ≤ 4))] ++
    d.inputs.zipIdx.map (fun x => (6 + x.2, decide (x.1.toNat < 24 ∨ (0x20 ≤ x.1.toNat ∧ x.1.toNat < 0x30)))) ++
    [(3, decide (d.holdSweeps.toNat ≤ 63)), (4, decide (d.window.toNat ≤ 63))] := by
  have hinputs := offsetFields_eq_zipIdx 6 (fun b => (source? b).isSome) d.inputs 0
  simp only [Nat.add_zero, source?_isSome] at hinputs
  simp only [termFields, bool?_isSome, function?_isSome, source?_isSome, hinputs, between_eq_decide, Nat.zero_le, true_and]

/-- The definition of a SET_TERM whose every field is in range is the one carried. -/
theorem definitionOf_eq {d : TermParams} (h : ∀ x ∈ termFields d, x.2 = true) : definitionOf d =
    { enabled := decide (d.enabled = 1)
      function :=
        if d.function = 0 then .any else if d.function = 1 then .all else if d.function = 2 then .one else .none
      inputs := d.inputs.map fun b =>
        if b.toNat < 24 then .channel (Fin.ofNat 24 b.toNat) else .term (Fin.ofNat 16 (b.toNat - 0x20))
      holdSweeps := d.holdSweeps.toNat
      window := d.window.toNat } := by
  have hfunction : (function? d.function).isSome = true := h (2, (function? d.function).isSome) (by simp [termFields])
  have hsources : ∀ b ∈ d.inputs, (source? b).isSome = true :=
    offsetFields_all (first := 6) (ok := fun b => (source? b).isSome) fun x hx => h x (by
      simp only [termFields, List.mem_append]; exact .inl (.inr hx))
  have hinputs : d.inputs.filterMap source? = d.inputs.map fun b =>
      if b.toNat < 24 then .channel (Fin.ofNat 24 b.toNat) else .term (Fin.ofNat 16 (b.toNat - 0x20)) := by
    rw [← List.filterMap_eq_map]
    exact List.filterMap_congr fun b hb => source?_eq_some (hsources b hb)
  rw [definitionOf, bool?_getD, function?_getD hfunction, hinputs]

/-- SET_TERM is one gate over all its fields, the term's own first, and then one staged write. -/
theorem execSetTerm_eq (p : Port) (tag term : Byte) (d : TermParams) (s : State) :
    execSetTerm p tag term d s = s.request p tag .holder
      (rangeGate ((0, decide (term.toNat < 16)) :: termFields d) fun s => s.stagedWrite fun cfg =>
        { cfg with terms := setAt cfg.terms (Fin.ofNat 16 term.toNat) (definitionOf d) }) := by
  unfold execSetTerm
  congr 1
  funext t
  by_cases hterm : term.toNat < 16
  · have hval : term.toNat = (Fin.ofNat 16 term.toNat).val := (Nat.mod_eq_of_lt hterm).symm
    rw [term?_of_val hval]
    simp only [rangeGate, firstBad, decide_eq_true hterm, if_true]
  · rw [term?_eq_none hterm]
    simp only [rangeGate, firstBad, decide_eq_false hterm, Bool.false_eq_true, if_false]

/-- Settles O26: the gate refuses the first field out of range, and otherwise the definition carried is staged. -/
theorem setTerm : Obligations.SetTerm := by
  unfold Obligations.SetTerm
  intro s p tag term d staging dirty expiry hs hl isSource fields
  have hfields : fields = (0, decide (term.toNat < 16)) :: termFields d := by rw [termFields_eq]; rfl
  obtain ⟨hrefused, htaken⟩ := State.request_stagedWrite (tag := tag) hs hl fields fun cfg =>
    { cfg with terms := setAt cfg.terms (Fin.ofNat 16 term.toNat) (definitionOf d) }
  have hexec := execSetTerm_eq p tag term d s
  rw [← hfields] at hexec
  refine ⟨fun x hx => hexec.trans (hrefused x hx), fun hnone k hk => ?_⟩
  have hk' : Fin.ofNat 16 term.toNat = k := Fin.ext (by rw [hk]; exact Nat.mod_eq_of_lt k.isLt)
  have hinRange : ∀ x ∈ termFields d, x.2 = true := fun x hx => by
    simpa using List.find?_eq_none.1 hnone x (by rw [hfields]; exact List.mem_cons_of_mem _ hx)
  have hwritten := htaken hnone
  rw [hk', definitionOf_eq hinRange] at hexec hwritten
  exact hexec.trans hwritten

end Sys2Proof.Machine
end

section
/-! PROOFS. Appends to a port's queue, an event offered, and the drain of a lapsed set (05 R86 to R88; 06 R90 to R94, R104,
R105, R110). -/

namespace Sys2Proof.Machine

/-! ### Appends to an open port -/

/-- The entries that reports make, with the numbers from one on (06 R90, R92). -/
def entrySeries (stamp : BitVec 16) (resync : Bool) (n : BitVec 16) (rs : List Report) : List Entry :=
  rs.mapIdx fun i r =>
    { sequence := nextSequence^[i] n, report := r, resync := resync, stamp := stamp, read := false }

section Series

variable (stamp : BitVec 16) (resync : Bool)

theorem entrySeries_cons (n : BitVec 16) (r : Report) (rs : List Report) :
    entrySeries stamp resync n (r :: rs) =
      { sequence := n, report := r, resync := resync, stamp := stamp, read := false } ::
        entrySeries stamp resync (nextSequence n) rs :=
  List.mapIdx_cons

theorem entrySeries_reports (n : BitVec 16) (rs : List Report) :
    (entrySeries stamp resync n rs).map (·.report) = rs := by
  induction rs generalizing n with
  | nil => rfl
  | cons r rs ih => simp [entrySeries_cons, ih]

theorem entrySeries_length (n : BitVec 16) (rs : List Report) : (entrySeries stamp resync n rs).length = rs.length := by
  simpa using congrArg List.length (entrySeries_reports stamp resync n rs)

theorem entrySeries_eq_nil_iff (n : BitVec 16) (rs : List Report) : entrySeries stamp resync n rs = [] ↔ rs = [] :=
  List.mapIdx_eq_nil_iff

/-- Each carries the marks and the stamp it was made with, and is UNREAD. -/
theorem entrySeries_marks (n : BitVec 16) (rs : List Report) :
    ∀ e ∈ entrySeries stamp resync n rs, e.resync = resync ∧ e.read = false ∧ e.stamp = stamp := by
  induction rs generalizing n with
  | nil => exact fun _ he => nomatch he
  | cons r rs ih =>
    rw [entrySeries_cons]
    intro e he
    rcases List.mem_cons.1 he with rfl | he
    · exact ⟨rfl, rfl, rfl⟩
    · exact ih _ e he

theorem entrySeries_unread (n : BitVec 16) (rs : List Report) :
    ((entrySeries stamp resync n rs).filter fun e => !e.read).length = rs.length := by
  rw [List.filter_eq_self.2 fun e he => by simp [(entrySeries_marks stamp resync n rs e he).2.1], entrySeries_length]

theorem entrySeries_numbered {n : BitVec 16} (hn : n ≠ 0) (rs : List Report) :
    numbered n (entrySeries stamp resync n rs) (nextSequence^[rs.length] n) := by
  induction rs generalizing n with
  | nil => rfl
  | cons r rs ih =>
    rw [entrySeries_cons]
    exact ⟨rfl, hn, ih (nextSequence_ne_zero n)⟩

end Series

/-- `count` appends bring the UNREAD count of a port in PULSE mode to the threshold, with the flag ARMED (05 R87). -/
def Session.reaches (se : Session) (unread count : Nat) : Bool :=
  decide (se.mode = .pulse ∧ se.rearm = some .armed ∧ unread < se.threshold ∧ se.threshold ≤ unread + count)

theorem Session.reaches_iff (se : Session) (unread count : Nat) : se.reaches unread count = true ↔
    se.mode = .pulse ∧ se.rearm = some .armed ∧ unread < se.threshold ∧ se.threshold ≤ unread + count :=
  decide_eq_true_iff

/-- The session after `count` appends: a flag whose threshold they reach is SPENT (05 R87). -/
def Session.after (se : Session) (unread count : Nat) : Session :=
  if se.reaches unread count then { se with rearm := some .spent } else se

/-- The line after `count` appends (05 R86 to R88). -/
def Delivery.lineAfter (d : Delivery) (se : Session) (now count : Nat) : AttentionLine :=
  if count = 0 ∨ d.reopened = some now then d.line
  else if se.mode = .level then { d.line with active := decide (se.threshold ≤ d.unread + count) }
  else if se.reaches d.unread count then d.line.beginPulse now
  else d.line

/-- An open port after the appends of reports. -/
def Delivery.grown (d : Delivery) (se : Session) (now : Nat) (stamp : BitVec 16) (resync : Bool) (rs : List Report) :
    Delivery :=
  { d with
    session := some (se.after d.unread rs.length)
    queue := d.queue ++ entrySeries stamp resync d.nextSeq rs
    nextSeq := nextSequence^[rs.length] d.nextSeq
    appended := d.appended || decide (rs ≠ [])
    line := d.lineAfter se now rs.length }

/-- One append (06 R90, R92), said whole. -/
theorem Delivery.append_eq_grown {d : Delivery} {se : Session} (hs : d.session = some se) (now : Nat) (stamp : BitVec 16)
    (resync : Bool) (r : Report) : d.append now stamp resync r = d.grown se now stamp resync [r] := by
  let queued : Delivery :=
    { d with
      queue := d.queue ++ entrySeries stamp resync d.nextSeq [r]
      nextSeq := nextSequence d.nextSeq
      appended := true }
  have hunread : queued.unread = d.unread + 1 := unread_append d _ rfl _ rfl
  obtain ⟨hlevel, hpulse⟩ := queued.lineAfterAppend_open now (se := se) hs
  show queued.lineAfterAppend now = _
  cases hm : se.mode with
  | level =>
    have hnot : se.reaches d.unread 1 = false := by simp [Session.reaches, hm]
    rw [hlevel hm, Delivery.followLevel, hunread]
    by_cases hr : d.reopened = some now <;>
      simp [Delivery.grown, Session.after, Delivery.lineAfter, Delivery.justReopened, queued, hm, hnot, hr, hs]
  | pulse =>
    have hmode : se.mode ≠ .level := by simp [hm]
    have hreach : (queued.unread = se.threshold ∧ se.rearm = some .armed) ↔ se.reaches d.unread 1 = true := by
      rw [hunread, Session.reaches_iff]
      constructor
      · rintro ⟨heq, harmed⟩; exact ⟨hm, harmed, by omega, by omega⟩
      · rintro ⟨-, harmed, hlt, hle⟩; exact ⟨by omega, harmed⟩
    rw [hpulse hm]
    simp only [hreach]
    by_cases hq : se.reaches d.unread 1 = true <;>
      simp [Delivery.grown, Session.after, Delivery.lineAfter, Delivery.justReopened, queued, hmode, hq, hs]

theorem Delivery.grown_unread (d : Delivery) (se : Session) (now : Nat) (stamp : BitVec 16) (resync : Bool)
    (rs : List Report) : (d.grown se now stamp resync rs).unread = d.unread + rs.length := by
  simp only [Delivery.unread, Delivery.grown, List.filter_append, List.length_append, entrySeries_unread]

@[simp] theorem Session.after_mode (se : Session) (unread count : Nat) : (se.after unread count).mode = se.mode := by
  unfold Session.after; split <;> rfl
@[simp] theorem Session.after_threshold (se : Session) (unread count : Nat) :
    (se.after unread count).threshold = se.threshold := by
  unfold Session.after; split <;> rfl

theorem Session.reaches_zero (se : Session) (unread : Nat) : se.reaches unread 0 = false := by
  rw [Bool.eq_false_iff, ne_eq, Session.reaches_iff]; omega

/-- A flag that an append leaves SPENT is not spent again (05 R87). -/
theorem Session.after_reaches (se : Session) (unread unread' count : Nat) (h : se.reaches unread 1 = true) :
    (se.after unread 1).reaches unread' count = false := by
  rw [Session.after, if_pos h]
  simp [Session.reaches]

/-- The first of some appends reaches the threshold or leaves it to the others. -/
theorem Session.reaches_succ (se : Session) (unread count : Nat) : se.reaches unread (count + 1) =
    (se.reaches unread 1 || (se.after unread 1).reaches (unread + 1) count) := by
  rw [Bool.eq_iff_iff, Bool.or_eq_true]
  by_cases h : se.reaches unread 1 = true
  · obtain ⟨hm, ha, hlt, hle⟩ := (se.reaches_iff unread 1).1 h
    exact ⟨fun _ => .inl h, fun _ => (se.reaches_iff _ _).2 ⟨hm, ha, hlt, by omega⟩⟩
  · rw [Session.after, if_neg h]
    simp only [Session.reaches_iff] at h ⊢
    constructor
    · rintro ⟨hm, ha, hlt, hle⟩
      exact .inr ⟨hm, ha, Nat.lt_of_not_le fun hle => h ⟨hm, ha, hlt, hle⟩, by omega⟩
    · rintro (h1 | ⟨hm, ha, hlt, hle⟩)
      · exact absurd h1 h
      · exact ⟨hm, ha, by omega, by omega⟩

/-- The flag after one append and then others. -/
theorem Session.after_succ (se : Session) (unread count : Nat) :
    (se.after unread 1).after (unread + 1) count = se.after unread (count + 1) := by
  rw [Session.after.eq_1 se unread (count + 1), Session.reaches_succ, Session.after.eq_1 (se.after unread 1)]
  unfold Session.after
  cases se.reaches unread 1 <;> simp

/-- The line after one append and then others. -/
theorem Delivery.lineAfter_succ (d : Delivery) (se : Session) (now : Nat) (stamp : BitVec 16) (resync : Bool)
    (r : Report) (count : Nat) :
    (d.grown se now stamp resync [r]).lineAfter (se.after d.unread 1) now count = d.lineAfter se now (count + 1) := by
  have hunread : (d.grown se now stamp resync [r]).unread = d.unread + 1 := d.grown_unread se now stamp resync [r]
  unfold Delivery.lineAfter
  rw [hunread, Session.reaches_succ]
  by_cases hr : d.reopened = some now
  · simp [Delivery.grown, Delivery.lineAfter, hr]
  cases hm : se.mode with
  | level =>
    rcases Nat.eq_zero_or_pos count with rfl | hc
    · simp [Delivery.grown, Delivery.lineAfter, hr, hm]
    · simp [Delivery.grown, Delivery.lineAfter, hr, hm, hc.ne', Nat.add_assoc, Nat.add_comm 1]
  | pulse =>
    cases h : se.reaches d.unread 1 with
    | true => simp [Delivery.grown, Delivery.lineAfter, hr, hm, h, se.after_reaches _ _ _ h]
    | false =>
      rcases Nat.eq_zero_or_pos count with rfl | hc
      · simp [Delivery.grown, Delivery.lineAfter, hr, hm, h, Session.reaches_zero]
      · simp [Delivery.grown, Delivery.lineAfter, hr, hm, h, hc.ne']

theorem Delivery.grown_nil {d : Delivery} {se : Session} (hs : d.session = some se) (now : Nat) (stamp : BitVec 16)
    (resync : Bool) : d.grown se now stamp resync [] = d := by
  have hidle : se.after d.unread 0 = se := by simp [Session.after, Session.reaches_zero]
  simp [Delivery.grown, hidle, Delivery.lineAfter, entrySeries, ← hs]

/-- One append and then others. -/
theorem Delivery.grown_cons (d : Delivery) (se : Session) (now : Nat) (stamp : BitVec 16) (resync : Bool) (r : Report)
    (rs : List Report) :
    (d.grown se now stamp resync [r]).grown (se.after d.unread 1) now stamp resync rs =
      d.grown se now stamp resync (r :: rs) := by
  have hunread : (d.grown se now stamp resync [r]).unread = d.unread + 1 := d.grown_unread se now stamp resync [r]
  rw [Delivery.grown, d.lineAfter_succ, hunread, Session.after_succ]
  simp [Delivery.grown, entrySeries]

/-! ### An event offered to a port (06 R91 to R93) -/

theorem Delivery.appendable_iff (d : Delivery) : d.appendable = true ↔ d.lapsed = .empty ∧ d.queue.length < 32 := by
  unfold Delivery.appendable
  rw [Bool.and_eq_true]
  exact and_congr decide_eq_true_iff decide_eq_true_iff

theorem State.offerTo_closed {s : State} {p : Port} (h : (s.delivery.get p).session = none) (r : Report) :
    s.offerTo p r = s := by
  simp only [State.offerTo, h]

theorem State.offerTo_append {s : State} {p : Port} {se : Session} (h : (s.delivery.get p).session = some se)
    (ha : (s.delivery.get p).appendable = true) (r : Report) :
    s.offerTo p r = s.setDeliveryOf p ((s.delivery.get p).append s.now s.stamp false r) := by
  simp only [State.offerTo, h, ha, if_true]

theorem State.offerTo_fold {s : State} {p : Port} {se : Session} (h : (s.delivery.get p).session = some se)
    (ha : ¬(s.delivery.get p).appendable = true) (r : Report) :
    s.offerTo p r = (s.setDeliveryOf p ((s.delivery.get p).fold r)).countLapse p := by
  simp only [State.offerTo, h, if_neg ha]

/-- Settles O12: a CLOSED port, an append, and a fold. -/
theorem offeredEvent : Obligations.OfferedEvent := by
  unfold Obligations.OfferedEvent
  intro s p r d
  refine ⟨fun hnone => State.offerTo_closed hnone r, ?_, ?_⟩
  · intro se hse hlapsed hroom reached
    have hreached : reached ↔ se.reaches d.unread 1 = true := by
      rw [Session.reaches_iff]
      constructor
      · rintro ⟨hm, heq, ha⟩; exact ⟨hm, ha, by omega, by omega⟩
      · rintro ⟨hm, ha, hlt, hle⟩; exact ⟨hm, by omega, ha⟩
    rw [State.offerTo_append hse (d.appendable_iff.2 ⟨hlapsed, hroom⟩), Delivery.append_eq_grown hse]
    simp only [hreached]
    refine congrArg (s.setDeliveryOf p) ?_
    simp [Delivery.grown, Delivery.lineAfter, Session.after, apply_ite some, entrySeries, nextSequence, State.stamp,
      AttentionLine.beginPulse, pulseTicks, microseconds, d]
  · intro se hse hfull
    have hfold : ¬d.appendable = true := by
      rw [Delivery.appendable_iff]
      rintro ⟨hempty, hroom⟩
      rcases hfull with h | h
      · exact h hempty
      · omega
    rw [State.offerTo_fold hse hfold, State.countLapse, saturatingIncrement_eq]
    cases r <;> rfl

/-! ### The drain of a lapsed set (06 R104, R105) -/

/-- The members of a drain in their order make the reports of the lapsed set in theirs. -/
theorem State.drainOrder_reports (s : State) (l : Lapsed) : drainOrder.filterMap (s.drainReport l) = s.lapsedReports l := by
  have hmarked {α : Type} (p : α → Bool) (f : α → Report) (xs : List α) :
      xs.filterMap (fun x => if p x = true then some (f x) else none) = (xs.filter p).map f := by
    rw [← List.filterMap_eq_map', List.filterMap_filter]
  unfold drainOrder State.lapsedReports
  rw [List.filterMap_append, List.filterMap_append, List.filterMap_map, List.filterMap_map, ← hmarked, ← hmarked]
  congr 2
  obtain ⟨epoch, lease, store, _, _⟩ := l
  cases epoch <;> cases lease <;> cases store <;> rfl

theorem drainOrder_nodup : drainOrder.Nodup := by decide

/-- Exactly the empty set has nothing to report. -/
theorem State.lapsedReports_eq_nil_iff (s : State) (l : Lapsed) : s.lapsedReports l = [] ↔ l = .empty := by
  rw [← State.drainOrder_reports, List.filterMap_eq_nil_iff]
  constructor
  · intro hnone
    refine l.eq_empty_of_none fun m => ?_
    rw [← s.drainReport_isSome, hnone m (mem_drainOrder m)]
    rfl
  · rintro rfl m -
    rw [← Option.isNone_iff_eq_none, ← Option.not_isSome, s.drainReport_isSome]
    cases m <;> simp [Lapsed.has, Lapsed.empty]

theorem State.drainReport_remove_same (s : State) (l : Lapsed) (m : Member) : s.drainReport (l.remove m) m = none := by
  rw [← Option.isNone_iff_eq_none, ← Option.not_isSome, s.drainReport_isSome, Lapsed.has_remove]
  simp

theorem State.drainReport_remove_ne (s : State) (l : Lapsed) {m m' : Member} (h : m' ≠ m) :
    s.drainReport (l.remove m) m' = s.drainReport l m' := by
  have hhas : (l.remove m).has m' = l.has m' := by rw [Lapsed.has_remove, decide_eq_false h, Bool.not_false, Bool.and_true]
  cases m' with
  | epoch => exact congrArg (fun b => if b = true then some (Report.epoch s.epoch) else none) hhas
  | lease =>
    cases m with
    | lease => exact absurd rfl h
    | _ => rfl
  | store =>
    cases m with
    | store => exact absurd rfl h
    | _ => rfl
  | channel n =>
    exact congrArg (fun b => if b = true then some (Report.resyncChannel n (s.trackers.get n).state) else none) hhas
  | term k => exact congrArg (fun b => if b = true then some (Report.resyncTerm k (s.terms.get k).state) else none) hhas

/-- One member of the drain: nothing without room or without a report to make, else one append. -/
theorem State.drainMember_full (s : State) {d : Delivery} (h : 32 ≤ d.queue.length) (m : Member) :
    s.drainMember d m = d :=
  if_neg (Nat.not_lt.2 h)

theorem State.drainMember_none (s : State) {d : Delivery} {m : Member} (h : s.drainReport d.lapsed m = none) :
    s.drainMember d m = d := by
  unfold State.drainMember
  rw [h]
  exact ite_self d

theorem State.drainMember_some (s : State) {d : Delivery} {m : Member} {r : Report} (hroom : d.queue.length < 32)
    (h : s.drainReport d.lapsed m = some r) :
    s.drainMember d m = ({ d with lapsed := d.lapsed.remove m } : Delivery).append s.now s.stamp true r := by
  unfold State.drainMember
  rw [h]
  exact if_pos hroom

/-- What a drain along some members makes of an open port: the reports that have room are appended, the others stay to be
made, and no other member is touched. -/
def State.Drained (s : State) (l : List Member) (d : Delivery) (se : Session) (t : Delivery) : Prop :=
  t =
    { d.grown se s.now s.stamp true ((l.filterMap (s.drainReport d.lapsed)).take (32 - d.queue.length)) with
      lapsed := t.lapsed } ∧
  l.filterMap (s.drainReport t.lapsed) = (l.filterMap (s.drainReport d.lapsed)).drop (32 - d.queue.length) ∧
  ∀ m, m ∉ l → s.drainReport t.lapsed m = s.drainReport d.lapsed m

/-- A drain along distinct members, in their order. -/
theorem State.drained (s : State) {d : Delivery} {se : Session} (hs : d.session = some se) {l : List Member}
    (hl : l.Nodup) : s.Drained l d se (l.foldl s.drainMember d) := by
  induction l generalizing d se with
  | nil => exact ⟨by simp [Delivery.grown_nil hs], by simp, fun _ _ => rfl⟩
  | cons m ms ih =>
    obtain ⟨hm, hms⟩ := List.nodup_cons.1 hl
    rw [List.foldl_cons]
    cases hr : s.drainReport d.lapsed m with
    | none =>
      obtain ⟨hrecord, hleft, hothers⟩ := ih hs hms
      rw [s.drainMember_none hr]
      refine ⟨?_, ?_, fun m' hm' => hothers m' (List.not_mem_of_not_mem_cons hm')⟩
      · rwa [List.filterMap_cons_none hr]
      · rwa [List.filterMap_cons_none hr, List.filterMap_cons_none ((hothers m hm).trans hr)]
    | some r =>
      rcases Nat.lt_or_ge d.queue.length 32 with hroom | hfull
      · let d1 : Delivery := { d with lapsed := d.lapsed.remove m }.grown se s.now s.stamp true [r]
        have hstep : s.drainMember d m = d1 := by
          rw [s.drainMember_some hroom hr]
          exact Delivery.append_eq_grown (d := { d with lapsed := d.lapsed.remove m }) hs _ _ _ _
        have hsame : ms.filterMap (s.drainReport d1.lapsed) = ms.filterMap (s.drainReport d.lapsed) :=
          List.filterMap_congr fun m' hm' => s.drainReport_remove_ne _ fun e => hm (e ▸ hm')
        have hlength : 32 - d.queue.length = 32 - d1.queue.length + 1 := by
          simp [d1, Delivery.grown, entrySeries]
          omega
        obtain ⟨hrecord, hleft, hothers⟩ := ih (d := d1) (se := se.after d.unread 1) rfl hms
        rw [hsame] at hrecord hleft
        rw [hstep]
        refine ⟨?_, ?_, fun m' hm' => ?_⟩
        · rw [List.filterMap_cons_some hr, hlength, List.take_succ_cons, ← Delivery.grown_cons]
          exact hrecord
        · have hgone : s.drainReport (ms.foldl s.drainMember d1).lapsed m = none :=
            (hothers m hm).trans (s.drainReport_remove_same d.lapsed m)
          rwa [List.filterMap_cons_some hr, hlength, List.drop_succ_cons, List.filterMap_cons_none hgone]
        · obtain ⟨hne, hms'⟩ := not_or.1 (mt List.mem_cons.2 hm')
          exact (hothers m' hms').trans (s.drainReport_remove_ne _ hne)
      · obtain ⟨hrecord, hleft, hothers⟩ := ih hs hms
        have hzero : 32 - d.queue.length = 0 := by omega
        rw [hzero] at hrecord hleft
        rw [s.drainMember_full hfull]
        refine ⟨?_, ?_, fun m' hm' => hothers m' (List.not_mem_of_not_mem_cons hm')⟩
        · rwa [hzero]
        · rw [hzero, List.filterMap_cons_some hr, List.filterMap_cons_some ((hothers m hm).trans hr), hleft]
          rfl

/-- Settles O16: along the drain order the reports are those of the lapsed set, each made by its member. -/
theorem Delivery.drainOrder : Obligations.DrainOrder := by
  unfold Obligations.DrainOrder
  intro s d se hs hlen hn room t
  obtain ⟨hrecord, hleft, -⟩ := s.drained hs drainOrder_nodup
  rw [State.drainOrder_reports, State.drainOrder_reports] at hleft
  rw [State.drainOrder_reports] at hrecord
  let rs := (s.lapsedReports d.lapsed).take room
  have hcount : (entrySeries s.stamp true d.nextSeq rs).length = rs.length := entrySeries_length _ _ _ _
  have ht : t = { d.grown se s.now s.stamp true rs with lapsed := t.lapsed } := hrecord
  refine ⟨entrySeries s.stamp true d.nextSeq rs, ?_, entrySeries_reports _ _ _ _, hleft, entrySeries_marks _ _ _ _,
    ?_, ?_, ?_⟩
  · rw [ht]; rfl
  · rw [ht]; exact entrySeries_numbered _ _ hn rs
  · rw [← s.lapsedReports_eq_nil_iff, show s.lapsedReports t.lapsed = _ from hleft, List.drop_eq_nil_iff]
  · intro unread reached
    have hreached : reached ↔ se.reaches d.unread rs.length = true := by
      rw [Session.reaches_iff, ← hcount]
    rw [ht]
    simp only [hreached]
    have hsome : decide (entrySeries s.stamp true d.nextSeq rs ≠ []) = decide (rs ≠ []) := by
      simp [entrySeries_eq_nil_iff]
    simp only [unread, hcount, hsome, entrySeries_eq_nil_iff]
    simp [Delivery.grown, Delivery.lineAfter, Session.after, apply_ite some, AttentionLine.beginPulse, pulseTicks,
      microseconds]

end Sys2Proof.Machine
end

section
/-! PROOFS. To whom an event is offered: an offer to one port reads and changes what that port has, and nothing else (05 R78,
R79; 06 R91, R110). -/

namespace Sys2Proof.Machine

/-- What an offer to a port reads and changes: the moment, the stamp, the port's record and its lapse count. -/
def State.offerView (q : Port) (s : State) : Nat × BitVec 16 × Delivery × BitVec 16 :=
  (s.now, s.stamp, s.delivery.get q, s.status.counters.lapses.get q)

/-- An offer to another port. -/
theorem State.offerTo_view_ne (s : State) {p q : Port} (hne : q ≠ p) (r : Report) :
    (s.offerTo p r).offerView q = s.offerView q := by
  unfold State.offerTo
  dsimp only
  split
  · rfl
  · split
    · simp [State.offerView, State.setDeliveryOf, State.stamp, PortMap.get_set_ne _ hne]
    · simp [State.offerView, State.countLapse, State.setCounters, State.setStatus, State.setDeliveryOf, State.setDelivery,
        State.stamp, PortMap.get_set_ne _ hne]

/-- Offers to one port of states that are the same there. -/
theorem State.offerTo_view_congr {q : Port} {s t : State} (h : s.offerView q = t.offerView q) (r : Report) :
    (s.offerTo q r).offerView q = (t.offerTo q r).offerView q := by
  have hview := h
  simp only [State.offerView, Prod.mk.injEq] at hview
  obtain ⟨hnow, hstamp, hdelivery, hlapses⟩ := hview
  unfold State.offerTo
  dsimp only
  rw [hdelivery, hnow, hstamp]
  split
  · exact h
  · split
    · simp_all [State.offerView, State.setDeliveryOf, State.stamp]
    · simp_all [State.offerView, State.countLapse, State.setCounters, State.setStatus, State.setDeliveryOf,
        State.setDelivery, State.stamp]

theorem State.offerIfSubscribed_view_ne (s : State) {p q : Port} (hne : q ≠ p) (r : Report) :
    (s.offerIfSubscribed p r).offerView q = s.offerView q := by
  unfold State.offerIfSubscribed
  split
  · rfl
  · split
    · exact s.offerTo_view_ne hne r
    · rfl

theorem State.offerIfSubscribed_view_congr {q : Port} {s t : State} (h : s.offerView q = t.offerView q) (r : Report) :
    (s.offerIfSubscribed q r).offerView q = (t.offerIfSubscribed q r).offerView q := by
  have hdelivery : s.delivery.get q = t.delivery.get q := congrArg (fun v => v.2.2.1) h
  unfold State.offerIfSubscribed
  rw [hdelivery]
  split
  · exact h
  · split
    · exact State.offerTo_view_congr h r
    · exact h

/-- At each port an event offered to all has the effect of the offer there alone. -/
theorem State.offerAll_view (s : State) (r : Report) (q : Port) :
    (s.offerAll r).offerView q = (s.offerIfSubscribed q r).offerView q := by
  let sa := s.offerIfSubscribed .a r
  let sb := sa.offerIfSubscribed .b r
  show (sb.offerIfSubscribed .c r).offerView q = _
  cases q with
  | a =>
    calc (sb.offerIfSubscribed .c r).offerView .a
      _ = sb.offerView .a := sb.offerIfSubscribed_view_ne (by decide) r
      _ = sa.offerView .a := sa.offerIfSubscribed_view_ne (by decide) r
  | b =>
    calc (sb.offerIfSubscribed .c r).offerView .b
      _ = sb.offerView .b := sb.offerIfSubscribed_view_ne (by decide) r
      _ = (s.offerIfSubscribed .b r).offerView .b :=
        State.offerIfSubscribed_view_congr (s.offerIfSubscribed_view_ne (by decide) r) r
  | c =>
    have hbefore : sb.offerView .c = s.offerView .c :=
      calc sb.offerView .c
        _ = sa.offerView .c := sa.offerIfSubscribed_view_ne (by decide) r
        _ = s.offerView .c := s.offerIfSubscribed_view_ne (by decide) r
    exact State.offerIfSubscribed_view_congr hbefore r

/-- Nothing but the delivery unit and the lapse counts differs. -/
def State.OffersOnly (s t : State) : Prop :=
  ∃ delivery lapses, t =
    { s with
      delivery := delivery
      status := { s.status with counters := { s.status.counters with lapses := lapses } } }

theorem State.OffersOnly.offerIfSubscribed {s t : State} (h : s.OffersOnly t) (p : Port) (r : Report) :
    s.OffersOnly (t.offerIfSubscribed p r) := by
  obtain ⟨delivery, lapses, rfl⟩ := h
  unfold State.offerIfSubscribed State.offerTo
  dsimp only
  split
  · exact ⟨delivery, lapses, rfl⟩
  · split
    · split
      · exact ⟨delivery, lapses, rfl⟩
      · split
        · exact ⟨_, lapses, rfl⟩
        · exact ⟨_, _, rfl⟩
    · exact ⟨delivery, lapses, rfl⟩

theorem State.offerAll_offersOnly (s : State) (r : Report) : s.OffersOnly (s.offerAll r) :=
  foldl_inv (I := s.OffersOnly) _ (fun _ p h => h.offerIfSubscribed p r) _ _ ⟨s.delivery, s.status.counters.lapses, rfl⟩

theorem State.offerIfSubscribed_of_subscribes {s : State} {p : Port} {se : Session} {r : Report}
    (hs : (s.delivery.get p).session = some se) (h : se.subscribes r = true) :
    s.offerIfSubscribed p r = s.offerTo p r := by
  simp only [State.offerIfSubscribed, hs, h, if_true]

theorem State.offerIfSubscribed_of_not {s : State} {p : Port} {r : Report}
    (h : ∀ se, (s.delivery.get p).session = some se → ¬se.subscribes r = true) : s.offerIfSubscribed p r = s := by
  unfold State.offerIfSubscribed
  split
  · rfl
  · rename_i se hse
    exact if_neg (h se hse)

/-- Settles O13: at each port the offer is the port's own, made exactly where its session subscribes. -/
theorem eventsReachSubscribers : Obligations.EventsReachSubscribers := by
  unfold Obligations.EventsReachSubscribers
  intro s r
  refine ⟨s.offerAll_offersOnly r, ?_⟩
  intro p concerned
  have hview := s.offerAll_view r p
  have hconcerned : concerned ↔ ∃ se, (s.delivery.get p).session = some se ∧ se.subscribes r = true :=
    exists_congr fun se => and_congr_right fun _ => by
      cases r <;> simp [Session.subscribes]
  have hparts {t : State} (ht : (s.offerAll r).offerView p = t.offerView p) :
      (s.offerAll r).delivery.get p = t.delivery.get p ∧
        (s.offerAll r).status.counters.lapses.get p = t.status.counters.lapses.get p :=
    ⟨congrArg (fun v => v.2.2.1) ht, congrArg (fun v => v.2.2.2) ht⟩
  constructor
  · intro h
    obtain ⟨se, hse, hsub⟩ := hconcerned.1 h
    rw [State.offerIfSubscribed_of_subscribes hse hsub] at hview
    exact hparts hview
  · intro h
    rw [State.offerIfSubscribed_of_not fun se hse hsub => h (hconcerned.2 ⟨se, hse, hsub⟩)] at hview
    exact hparts hview

end Sys2Proof.Machine
end

section
/-! PROOFS. The delivery unit stays sound at every step (05 R77, R81, R85 to R88; 06 R89, R90, R94, R100). -/

namespace Sys2Proof.Machine

/-- It reads the delivery records, the phase and the active configuration alone. -/
theorem State.DeliverySound.of_frame {s t : State} (h : s.DeliverySound) (hd : t.delivery = s.delivery)
    (hp : t.phase = s.phase) (ha : t.active = s.active) : t.DeliverySound := by
  rw [State.deliverySound_iff] at h ⊢
  rw [ha]
  exact h.of_eq hd hp

/-- An operation that drives no line anew and leaves the active configuration as it was. -/
theorem State.DeliverySound.of_kept {s t : State} (h : s.DeliverySound)
    (hk : s.DeliveryKept (polarityOf s.active) → t.DeliveryKept (polarityOf s.active))
    (ha : t.active = s.active) : t.DeliverySound := by
  rw [State.deliverySound_iff] at h ⊢
  rw [ha]
  exact hk h

/-- On the running hub, a port's record replaced by a sound one that drives its line as it was driven. -/
theorem State.DeliverySound.set {s : State} (h : s.DeliverySound) (hrun : s.phase = .running) {p : Port} {d : Delivery}
    (hd : d.Sound) (hdriven : d.line.driven = (s.delivery.get p).line.driven)
    (hpolarity : d.line.polarity = (s.delivery.get p).line.polarity) : (s.setDeliveryOf p d).DeliverySound :=
  h.of_kept (fun hk => hk.set hd (fun hne => absurd hrun hne) hdriven hpolarity) rfl

/-- READ_EVENTS leaves the line's drive and polarity. -/
theorem Delivery.readOut_line (d : Delivery) (now : Nat) (mode : ReadMode) (count : Nat) :
    (d.readOut now mode count).line.driven = d.line.driven ∧
    (d.readOut now mode count).line.polarity = d.line.polarity := by
  unfold Delivery.readOut
  obtain ⟨-, -, -, -, -, hdriven, hpolarity⟩ := Delivery.lineAfterRead_rest
    { d with queue := d.queue.take (readStart mode d.queue) ++ (d.taken mode count).map Entry.markRead ++
        d.queue.drop (readStart mode d.queue + count) } now
  exact ⟨hdriven, hpolarity⟩

/-- An accepted acknowledgement keeps the delivery unit sound (06 R103, R104). -/
theorem State.DeliverySound.acknowledge {s : State} (h : s.DeliverySound) (hrun : s.phase = .running) {p : Port}
    (ho : s.isOpen p) {sequence : BitVec 16} {e : Entry}
    (hfind : ((s.delivery.get p).queue.find? fun e => decide (e.sequence = sequence)) = some e) (hread : e.read = true) :
    (s.acknowledge p sequence).1.DeliverySound := by
  obtain ⟨se, hse⟩ := ho
  obtain ⟨hdriven, hpolarity⟩ := s.acknowledge_line (s.delivery.get p) sequence
  exact h.set hrun (s.acknowledge_sound (h.ports p) hse hfind hread) hdriven hpolarity

/-- A sweep begins, or closes at once with the terms' events offered (01 R11). -/
theorem State.DeliverySound.beginSweep {s : State} (h : s.DeliverySound) : s.beginSweep.DeliverySound := by
  refine h.of_kept (fun hk => ?_) (by simp)
  have hnumber := hk.of_eq
    (t := s.setSequencer { s.sequencer with number := s.sequencer.number + 1 }) (by simp) (by simp)
  unfold State.beginSweep
  dsimp only
  split
  · rename_i n _
    exact State.DeliveryKept.of_eq (hnumber.placeOrClose (some n)) (by simp) (by simp)
  · exact hnumber.placeOrClose none

/-- The commit point drives each line at the polarity of its new profile (05 R85; 08 R150); for the rest it is offers that
reach the delivery unit. -/
theorem State.DeliverySound.committed {s : State} (h : s.DeliverySound) (staging : Configuration) (holder : Option Port) :
    (s.committed staging holder).DeliverySound := by
  let offered := ((s.commitReports staging).foldl State.offerAll s).offerCommitted holder
  have hkept : offered.DeliveryKept (polarityOf s.active) := by
    have hreports := foldl_inv (I := State.DeliveryKept (polarityOf s.active)) State.offerAll
      (fun _ r hk => hk.offerAll r) (s.commitReports staging) s (s.deliverySound_iff.1 h)
    cases holder with
    | none => exact hreports
    | some p => exact hreports.offerTo p _
  have hphase : offered.phase = s.phase := by
    have hreports := foldl_keeps State.phase State.offerAll State.offerAll_phase (s.commitReports staging) s
    cases holder with
    | none => exact hreports
    | some p => exact (State.offerTo_phase _ p _).trans hreports
  constructor
  case ports => intro p; rw [State.committed_delivery]; exact (hkept.ports p).repolarise _
  case closedBefore =>
    intro hp p
    rw [State.committed_delivery]
    exact hkept.closedBefore (by simpa [hphase] using hp) p
  case driven =>
    intro p
    rw [State.committed_delivery, State.committed_phase, ← hphase]
    exact hkept.driven p
  case polarity =>
    intro cfg hc p
    rw [State.committed_active] at hc
    cases hc
    rw [State.committed_delivery]
    rfl

/-- A reset closes every session and releases every line (05 R77, R81, R85). -/
theorem State.beginReset_deliverySound (s : State) (cause : ResetCause) : (s.beginReset cause).DeliverySound where
  ports p := by rw [State.beginReset_delivery]; exact Delivery.closed_sound _ rfl rfl rfl
  closedBefore _ p := by rw [State.beginReset_delivery]; rfl
  driven p := by rw [State.beginReset_delivery]; rfl
  polarity _ hc := nomatch hc

/-- The completion of the load finds every session CLOSED and drives every line inactive (05 R85; 09 R158). -/
theorem State.DeliverySound.startUp {s : State} (h : s.DeliverySound) (hp : s.phase ≠ .running) (cfg : Configuration)
    (source : ConfigSource) : (s.startUp cfg source).DeliverySound where
  ports p := by
    rw [State.startUp_delivery]
    have hclosed := h.closedBefore hp p
    obtain ⟨hqueue, hlapsed, hnext, happended, -, -, -, hreopened⟩ := (h.ports p).closed hclosed
    have hrecord : s.delivery.get p = Delivery.closed (s.delivery.get p).line := by
      generalize s.delivery.get p = d at *
      cases d
      simp_all [Delivery.closed]
    rw [hrecord]
    exact Delivery.closed_sound _ rfl rfl rfl
  closedBefore hne := absurd rfl hne
  driven p := by rw [State.startUp_delivery]; rfl
  polarity cfg' hc p := by cases hc; rw [State.startUp_delivery]; rfl

/-- What each effect of the commands does to the delivery unit. -/
theorem deliverySound_keeps : Keeps State.DeliverySound where
  now _ _ h := h.of_frame rfl rfl rfl
  lease _ _ h := h.of_frame (by simp) (by simp) (by simp)
  hold _ _ _ _ h := h.of_frame rfl rfl rfl
  counters _ _ h := h.of_frame rfl rfl rfl
  opened s p se hrun h1 h32 hrearm h :=
    have hopened := h.set (p := p) hrun
      (Delivery.opened_sound (s.delivery.get p).line.quiet rfl rfl rfl _ se h1 h32 hrearm) rfl rfl
    hopened.of_frame rfl rfl rfl
  closed s p hrun h :=
    have hclosed := h.set (p := p) hrun (Delivery.closed_sound (s.delivery.get p).line.quiet rfl rfl rfl) rfl rfl
    hclosed.of_frame rfl rfl rfl
  subscribed _ p se _ _ _ hrun hse h := h.set hrun (Delivery.subscribe_sound (h.ports p) hse _ _ _) rfl rfl
  readOut _ p mode count hrun _ h :=
    have hline := Delivery.readOut_line _ _ mode count
    h.set hrun (Delivery.readOut_sound (h.ports p) _ mode count) hline.1 hline.2
  acknowledged _ _ _ _ hrun ho hfind hread h := h.acknowledge hrun ho hfind hread
  offered _ p r h := h.of_kept (fun hk => hk.offerTo p r) (by simp)
  granted _ _ _ _ _ h := h.of_frame rfl rfl rfl
  freed _ _ _ h := h.of_frame rfl rfl rfl
  staged _ _ _ _ _ _ _ _ _ h := h.of_frame (by simp) (by simp) (by simp)
  committing _ _ _ _ _ _ _ h := h.of_frame (by simp) (by simp) (by simp)
  sampled _ _ _ _ _ _ _ _ h := h.of_frame (by simp) (by simp) (by simp)
  unsampled _ _ _ h := h.of_frame rfl rfl rfl
  halted s _ h := by
    unfold State.halted
    split
    · exact h
    · exact h.of_frame rfl rfl rfl
  resumed s _ h := by
    unfold State.resumed
    split
    · exact h
    · exact h.of_frame rfl rfl rfl
  restarting _ _ _ h := h.of_frame rfl rfl rfl
  storing _ _ _ _ _ h := h.of_frame rfl rfl rfl
  ended _ _ _ h := h.of_frame rfl rfl rfl
  begun _ _ _ _ _ h := h.of_frame rfl rfl rfl
  disturbed _ h := h.of_frame rfl rfl rfl
  repeated _ _ _ _ h := h.of_frame rfl rfl rfl
  counted _ n raw inRange _ _ h := h.of_kept (fun hk => hk.trackerTakes n raw inRange) (by simp)
  sweepEnded _ _ claim _ _ _ h :=
    h.of_kept (fun hk => (hk.sequencerActs claim).of_eq (by simp) (by simp)) (by simp)
  freshEnded _ _ _ _ _ _ h := h.of_frame (by simp) (by simp) (by simp)
  freshLeft _ _ _ _ _ _ h := h.of_frame (by simp) (by simp) (by simp)
  ticked _ _ _ _ h := h.of_frame rfl rfl rfl
  swept _ _ _ _ _ h := h.beginSweep
  commitPoint s holder staging _ _ _ _ _ h :=
    (h.committed staging holder).of_frame (t := (s.committed staging holder).consult) (by simp) (by simp) (by simp)
  expired _ n _ _ _ h := h.of_kept (fun hk => hk.trackerMoves n _) (by simp)
  erased _ _ _ _ _ _ h := h.of_frame rfl rfl rfl
  programmed _ _ _ _ _ _ h := h.of_frame rfl rfl rfl
  verified _ _ _ _ _ _ _ h := h.of_frame rfl rfl rfl
  aborted _ _ _ h := h.of_frame rfl rfl rfl
  supply _ _ h := h.of_frame rfl rfl rfl
  pulsed _ p _ hrun hpulse h := h.set hrun (Delivery.quiet_sound (h.ports p) hpulse) rfl rfl
  reset s cause _ := s.beginReset_deliverySound cause
  load s _ hp h :=
    { ports := h.ports
      closedBefore := fun _ => h.closedBefore (by simp [hp])
      driven := fun p => by rw [show (s.beginLoad _).delivery = s.delivery from rfl, h.driven p, hp]; rfl
      polarity := h.polarity }
  startUp _ _ cfg source hp _ h := h.startUp (by simp [hp]) cfg source

/-- Settles O55: the delivery unit is kept sound by every effect that a command is made of. -/
theorem deliveryStaysSound : Obligations.DeliveryStaysSound := by
  unfold Obligations.DeliveryStaysSound
  intro s t h hstep
  exact Keeps.step deliverySound_keeps (fun _ _ h => h.of_frame rfl rfl rfl) s t h hstep

end Sys2Proof.Machine
end

section
/-! PROOFS. Sessions: the gate on CLOSED ports, OPEN, CLOSE, SUBSCRIBE, the snapshots, READ_EVENTS and the end of a pulse (05
R73 to R76, R80, R82, R84, R87; 06 R96 to R99, R101; 10 R175). -/

namespace Sys2Proof.Machine

/-! ### The session gate (05 R75) -/

/-- A request that needs an open session, on a CLOSED port. -/
theorem State.request_noSession {s : State} {p : Port} {tag : Byte} {g : Gates} {block : State → State × Reply}
    (hp : s.phase = .running) (hclosed : (s.delivery.get p).session = none) (hg : g.session = true) :
    s.request p tag g block = .next ((s.took p).holding p .noSession tag []) := by
  have hrefused : (s.took p).gateRefusal p g = some (.plain .noSession) := by
    simp [State.gateRefusal, State.took, hclosed, hg]
  unfold State.request
  rw [hp, State.restartLeaseTimer_took]
  dsimp only
  rw [hrefused]
  rfl

/-- Settles O4: every request but the three is one that needs an open session. -/
theorem sessionGate : Obligations.SessionGate := by
  unfold Obligations.SessionGate
  intro c s p code tag hrequest hopen hstatus hidentify hp hclosed
  obtain ⟨hport, hparts⟩ := hrequest
  cases c <;> cases hport <;> cases hparts
  case openSession => exact absurd rfl hopen
  case readStatus => exact absurd rfl hstatus
  case identify => exact absurd rfl hidentify
  all_goals
    simp only [exec]
    exact State.request_noSession hp hclosed rfl

/-! ### OPEN, CLOSE and SUBSCRIBE (05 R73 to R76, R80) -/

theorem attentionMode?_isSome (b : Byte) : (attentionMode? b).isSome = decide (b.toNat ≤ 1) := by
  revert b; decide

theorem attentionMode?_getD {b : Byte} (h : b.toNat ≤ 1) :
    (attentionMode? b).getD .level = if b = 0 then .level else .pulse := by
  revert b; decide

/-- The session that parameters in range ask for (05 R73). -/
theorem openedSession_eq {mode : Byte} (h : mode.toNat ≤ 1) (channels : BitVec 24) (terms : BitVec 16)
    (classes threshold : Byte) : openedSession channels terms classes mode threshold =
      { channelMask := channels
        termMask := terms
        transitions := classes.getLsbD 0
        maintenance := classes.getLsbD 1
        mode := if mode = 0 then .level else .pulse
        threshold := threshold.toNat
        rearm := if mode = 0 then none else some .armed } := by
  unfold openedSession
  rw [attentionMode?_getD h]
  by_cases hm : mode = 0
  · rw [if_pos hm, if_pos hm]
  · rw [if_neg hm, if_neg hm]

/-- The range checks of OPEN, in their order (05 R73). -/
theorem openSession_firstBad (classes mode threshold : Byte) :
    firstBad [(5, classMaskOk classes), (6, (attentionMode? mode).isSome), (7, between 1 threshold.toNat 32)] =
      if 3 < classes.toNat then some 5 else if 1 < mode.toNat then some 6
      else if threshold.toNat = 0 ∨ 32 < threshold.toNat then some 7 else none := by
  simp only [firstBad, classMaskOk, attentionMode?_isSome, between_eq_decide, decide_eq_true_eq]
  grind

/-- Settles O6. -/
theorem openSession : Obligations.OpenSession := by
  unfold Obligations.OpenSession
  intro s p tag channels terms classes mode threshold hp
  simp only [exec, execOpenSession]
  rw [State.request_anyPort hp, rangeGate, openSession_firstBad]
  constructor
  · rintro ⟨hclasses, hmode, hlow, hhigh⟩
    rw [if_neg (by omega), if_neg (by omega), if_neg (by omega)]
    have hreopened : (if (s.delivery.get p).session.isSome = true then some s.now else none) =
        if (s.delivery.get p).session = none then none else some s.now := by
      cases (s.delivery.get p).session <;> rfl
    dsimp only
    rw [openedSession_eq hmode, ← hreopened]
    rfl
  · intro hbad
    by_cases hclasses : 3 < classes.toNat
    · rw [if_pos hclasses, if_pos hclasses]
      rfl
    · rw [if_neg hclasses, if_neg hclasses]
      by_cases hmode : 1 < mode.toNat
      · rw [if_pos hmode, if_pos hmode]
        rfl
      · rw [if_neg hmode, if_neg hmode, if_pos (by omega)]
        rfl

/-- The lease at a CLOSE, its timer restarted or not (05 R76). -/
theorem State.took_closedBy (s : State) (p : Port) : (s.took p).lease.closedBy p =
    match s.lease with
    | .free => .free
    | .held h staging dirty expiry => if h = p then .free else .held h staging dirty expiry
    | .committing h staging dirty => .committing (if h = some p then none else h) staging dirty := by
  unfold State.took State.leaseAfter Lease.closedBy
  cases s.lease with
  | free => rfl
  | held h staging dirty expiry =>
    by_cases hp : h = p
    · simp [hp]
    · simp [hp]
  | committing h staging dirty => exact (apply_ite (Lease.committing · staging dirty) _ _ _).symm

/-- Settles O7. -/
theorem closeSession : Obligations.CloseSession := by
  unfold Obligations.CloseSession
  intro s p tag hs
  simp only [exec, execCloseSession]
  rw [State.request_anySession hs]
  let closed : State := (s.setDeliveryOf p (Delivery.closed (s.delivery.get p).line.quiet)).setFresh (freePort p s.fresh)
  exact congrArg (fun lease => Host.Outcome.next ((closed.setLease lease).holding p .ok tag [])) (s.took_closedBy p)

/-- Settles O8. -/
theorem subscribe : Obligations.Subscribe := by
  unfold Obligations.Subscribe
  intro s p tag channels terms classes se hp hse
  simp only [exec, execSubscribe]
  rw [State.request_anySession ⟨hp, se, hse⟩]
  simp only [rangeGate, firstBad, classMaskOk, decide_eq_true_eq]
  constructor
  · intro hclasses
    rw [if_pos hclasses]
    have hsession : ((s.took p).delivery.get p).session = some se := hse
    simp only [Delivery.subscribe, hsession]
    rfl
  · intro hclasses
    rw [if_neg (Nat.not_le.2 hclasses)]
    rfl

/-- Settles O9. -/
theorem readState : Obligations.ReadState := by
  unfold Obligations.ReadState
  intro s p tag hs
  simp only [exec, execReadState]
  rw [State.request_anySession hs]
  have hrun : runStateCode s.sequencer.run = if s.sequencer.run = .run then 0x00 else 0x01 := by
    cases s.sequencer.run <;> rfl
  rw [← hrun]
  rfl

/-- Settles O10. -/
theorem readTracker : Obligations.ReadTracker := by
  unfold Obligations.ReadTracker
  intro s p tag channel hs
  simp only [exec, execReadTracker]
  rw [State.request_anySession hs]
  constructor
  · intro n hn
    have hchannel : channel = u8 n.val := by rw [← hn, u8, BitVec.ofNat_toNat, BitVec.setWidth_eq]
    rw [channel?_of_val hn]
    show Host.Outcome.next ((s.took p).holding p .ok tag (trackerBytes s.now n (s.trackers.get n))) = _
    rw [hchannel]
    generalize s.trackers.get n = t
    obtain ⟨_, _, _, _, _, _, _, _, _, timer⟩ := t
    cases timer <;> rfl
  · intro hn
    rw [channel?, dif_neg (Nat.not_lt.2 hn)]
    rfl

/-! ### READ_EVENTS (06 R96 to R101) -/

theorem readMode?_isSome (b : Byte) : (readMode? b).isSome = decide (b.toNat ≤ 1) := by
  revert b; decide

theorem readMode?_getD {b : Byte} (h : b.toNat ≤ 1) :
    (readMode? b).getD .next = if b = 0 then .next else .fromOldest := by
  revert b; decide

/-- The range checks of READ_EVENTS, in their order (06 R96). -/
theorem readEvents_firstBad (count mode : Byte) :
    firstBad [(0, between 1 count.toNat 8), (1, (readMode? mode).isSome)] =
      if count.toNat = 0 ∨ 8 < count.toNat then some 0 else if 1 < mode.toNat then some 1 else none := by
  simp only [firstBad, readMode?_isSome, between_eq_decide, decide_eq_true_eq]
  grind

/-- A READ_EVENTS on an open port: entries become READ, and the line or the flag follows the UNREAD count left (06 R99; 05
R86 to R88). -/
theorem Delivery.readOut_eq {d : Delivery} {se : Session} (hs : d.session = some se) (now : Nat) (mode : ReadMode)
    (count : Nat) {queue : List Entry} (hq : queue = markRun d.queue (readStart mode d.queue) count) :
    d.readOut now mode count =
      { d with
        session :=
          if se.mode = .pulse ∧ (queue.filter fun e => !e.read).length < se.threshold then
            some { se with rearm := some .armed }
          else some se
        queue := queue
        line :=
          if se.mode = .level then
            { d.line with active := decide (se.threshold ≤ (queue.filter fun e => !e.read).length) }
          else d.line.withdrawPulse now } := by
  subst hq
  let marked : Delivery := { d with queue := markRun d.queue (readStart mode d.queue) count }
  obtain ⟨hlevel, hpulse⟩ := marked.lineAfterRead_open now hs
  show marked.lineAfterRead now = _
  cases hm : se.mode with
  | level =>
    rw [hlevel hm, if_neg (by simp), if_pos rfl, ← hs]
    rfl
  | pulse =>
    simp only [hpulse hm, hm, true_and, reduceCtorEq, if_false, apply_ite some]
    rfl

/-- The summary byte: the UNREAD count, and the lapsed indication (06 R101). -/
theorem Delivery.summary_eq (d : Delivery) :
    d.summary = BitVec.ofNat 8 d.unread + if d.lapsed = .empty then 0x00 else 0x80 := by
  unfold Delivery.summary Lapsed.isEmpty flag
  by_cases h : d.lapsed = .empty <;> simp [h, u8]

/-- Settles O14. -/
theorem readEvents : Obligations.ReadEvents := by
  unfold Obligations.ReadEvents
  constructor
  · intro s p tag count mode se hp hse d start taken queue left
    simp only [exec, execReadEvents]
    rw [State.request_anySession ⟨hp, se, hse⟩, rangeGate, readEvents_firstBad]
    refine ⟨?_, ?_, ?_⟩
    · rintro ⟨hlow, hhigh, hmode⟩
      rw [if_neg (by omega), if_neg (by omega)]
      dsimp only
      rw [readMode?_getD hmode]
      let m : ReadMode := if mode = 0 then .next else .fromOldest
      have hstart : readStart m d.queue = start := by
        by_cases h : mode = 0
        · simp only [m, start, if_pos h, readStart]
        · simp only [m, start, if_neg h, readStart]
      have hrecord := Delivery.readOut_eq (d := d) hse s.now m count.toNat (queue := queue) (by rw [hstart]; rfl)
      have htaken : d.taken m count.toNat = taken := by rw [Delivery.taken, hstart]
      have hsummary := (d.readOut s.now m count.toNat).summary_eq
      rw [hrecord] at hsummary
      show Host.Outcome.next (((s.took p).setDeliveryOf p (d.readOut s.now m count.toNat)).holding p .ok tag
        ((d.readOut s.now m count.toNat).summary :: (d.taken m count.toNat).flatMap Entry.bytes)) = _
      rw [htaken, hrecord, hsummary]
      rfl
    · intro hcount
      rw [if_pos hcount]
      rfl
    · rintro ⟨hlow, hhigh, hmode⟩
      rw [if_neg (by omega), if_pos hmode]
      rfl
  · rintro ⟨sequence, report, resync, stamp, read⟩
    cases report <;> rfl

/-! ### The end of a pulse (05 R87) -/

/-- Settles O11. -/
theorem pulseEnd : Obligations.PulseEnd := by
  unfold Obligations.PulseEnd
  intro s p t hp ht
  simp only [exec, execPulseEnd]
  rw [State.whileRunning_running hp, ht]
  rfl

end Sys2Proof.Machine
end

section
/-! PROOFS. The hub right after reset meets the invariants (05 R81, R85; 09 R157 to R159). -/

namespace Sys2Proof.Machine

theorem State.reset_delivery (p : Port) : State.reset.delivery.get p = Delivery.closed (.drivenAt .activeLow) :=
  PortMap.get_const _ p

/-- The factory start states (03 R38, 09 R157): SEEDING for the channels enabled, OFF for the others. -/
theorem State.reset_trackers (n : ChannelId) :
    State.reset.trackers.get n = blankTracker (startState (factoryConfiguration.channels.get n)) := by
  have hprofile : factoryConfiguration.channels.get n = factoryProfile n := get_ofFn _ n
  have htracker : State.reset.trackers.get n = blankTracker (if n.val < 8 then .seeding else .off) := get_ofFn _ n
  rw [hprofile, htracker]
  by_cases hn : n.val < 8 <;> simp [startState, factoryProfile, hn]

theorem State.reset_terms (k : TermId) :
    State.reset.terms.get k = blankTerm (termStartState (factoryConfiguration.terms.get k)) := by
  have hdefinition : factoryConfiguration.terms.get k = factoryTerm k := get_ofFn _ k
  rw [hdefinition]
  exact get_ofFn _ k

theorem State.reset_ports (p : Port) : State.reset.ports.get p =
    { address := 0x3A, indication := .none, buffer := [], overflow := false, held := none } :=
  PortMap.get_const _ p

theorem State.reset_deliverySound : State.reset.DeliverySound where
  ports p := by rw [State.reset_delivery]; exact Delivery.closed_sound _ rfl rfl rfl
  closedBefore hne := absurd rfl hne
  driven p := by rw [State.reset_delivery]; rfl
  polarity cfg hc p := by
    cases hc
    rw [State.reset_delivery]
    exact (congrArg PortProfile.polarity (PortMap.get_const factoryPort p)).symm

theorem State.reset_freshSound : State.reset.FreshSound where
  six := Nat.zero_le _
  two _ := Nat.zero_le _
  tags := List.Pairwise.nil
  nonzero _ he := nomatch he
  closed _ _ _ he := nomatch he
  measuring _ he := nomatch he

theorem State.reset_arbiterSound : State.reset.ArbiterSound where
  idle _ := ⟨rfl, .inr fun _ he => nomatch he⟩
  position hne := absurd rfl hne
  ticking _ _ := Option.some_ne_none _
  before hne := absurd rfl hne

theorem State.reset_configurationSound : State.reset.ConfigurationSound where
  running _ := ⟨factoryConfiguration, rfl, factoryConfiguration_valid, trivial⟩
  before hne := absurd rfl hne
  snapshot _ hr := nomatch hr

theorem State.reset_trackersSound : State.reset.TrackersSound :=
  .of_under rfl rfl fun n => by rw [State.reset_trackers]; exact blankTracker_sound _ _

theorem State.reset_termsSound : State.reset.TermsSound where
  running := ⟨fun _ => rfl, fun _ => rfl⟩
  sound cfg hc k := by cases hc; rw [State.reset_terms]; exact blankTerm_sound _
  before hn := nomatch hn

theorem State.reset_storeSound : State.reset.StoreSound where
  check _ hr := nomatch hr
  generation _ hr := nomatch hr
  newer _ hr := nomatch hr
  erased _ hr := nomatch hr
  written _ hr := nomatch hr
  before hne := absurd rfl hne

theorem State.reset_portsSound : State.reset.PortsSound where
  ports p := by
    rw [State.reset_ports]
    exact ⟨.inl rfl, Nat.zero_le _, nofun, fun _ => ⟨rfl, rfl⟩⟩
  before hne := absurd rfl hne

/-- Settles O59, an invariant each. -/
theorem resetMeetsTheInvariants : Obligations.ResetMeetsTheInvariants :=
  ⟨State.reset_deliverySound, State.reset_freshSound, State.reset_arbiterSound, State.reset_configurationSound,
    State.reset_trackersSound, State.reset_termsSound, State.reset_storeSound, State.reset_portsSound⟩

end Sys2Proof.Machine
end

section
/-! PROOFS. ACK_EVENTS: what an acknowledgement finds, removes and answers (06 R102, R103, R106). -/

namespace Sys2Proof.Machine

/-! ### The entry that carries the number (06 R102, R103) -/

theorem find_sequence_absent {queue : List Entry} {number : BitVec 16} (habsent : ∀ e ∈ queue, e.sequence ≠ number) :
    (queue.find? fun e => decide (e.sequence = number)) = none := by
  simpa using habsent

/-- Of the entries that carry the number, the oldest is found. -/
theorem find_sequence {old newer : List Entry} {e : Entry} {number : BitVec 16} (he : e.sequence = number)
    (hold : ∀ x ∈ old, x.sequence ≠ number) :
    ((old ++ e :: newer).find? fun e => decide (e.sequence = number)) = some e := by
  rw [List.find?_append, find_sequence_absent hold, Option.none_or]
  exact List.find?_cons_of_pos (decide_eq_true he)

/-- The entry that carries the number is counted with every older one. -/
theorem ackCount_append {old newer : List Entry} {e : Entry} {number : BitVec 16} (he : e.sequence = number)
    (hold : ∀ x ∈ old, x.sequence ≠ number) : ackCount number (old ++ e :: newer) = old.length + 1 := by
  unfold ackCount
  rw [List.takeWhile_append_of_pos fun x hx => decide_eq_true (hold x hx),
    List.takeWhile_cons_of_neg (by simpa using he), List.append_nil]

/-- The removal leaves the entries newer than the one that carries the number. -/
theorem Delivery.removeUpTo_append {d : Delivery} {old newer : List Entry} {e : Entry} {number : BitVec 16}
    (hqueue : d.queue = old ++ e :: newer) (he : e.sequence = number) (hold : ∀ x ∈ old, x.sequence ≠ number) :
    d.removeUpTo number = { d with queue := newer } := by
  have hdrop : (old ++ e :: newer).drop (old.length + 1) = newer := by simp
  rw [Delivery.removeUpTo, hqueue, ackCount_append he hold, hdrop]

/-! ### The acknowledgement (06 R103, R104, R106) -/

/-- The drain reads nothing of the lease, so the lease timer that the request restarts does not count in it. -/
theorem State.took_drain (s : State) (p : Port) (d : Delivery) : (s.took p).drain d = s.drain d := rfl

/-- The byte that tells whether the lapsed set still holds a member (06 R106). -/
theorem Lapsed.presence_eq (l : Lapsed) : yesNo (!l.isEmpty) = if l = .empty then 0x00 else 0x01 := by
  unfold Lapsed.isEmpty yesNo
  by_cases h : l = .empty <;> simp [h]

/-- An accepted acknowledgement, said by the parts of the queue: the older entries, the one named, and the newer. -/
theorem State.acknowledge_append {s : State} {p : Port} {old newer : List Entry} {e : Entry} {number : BitVec 16}
    (hqueue : (s.delivery.get p).queue = old ++ e :: newer) (he : e.sequence = number)
    (hold : ∀ x ∈ old, x.sequence ≠ number) :
    let drained := s.drain { s.delivery.get p with queue := newer }
    s.acknowledge p number =
      (s.setDeliveryOf p drained,
        ⟨.ok, [BitVec.ofNat 8 (old.length + 1), BitVec.ofNat 8 (drained.queue.length - newer.length),
          if drained.lapsed = .empty then 0x00 else 0x01]⟩) := by
  intro drained
  unfold State.acknowledge
  dsimp only
  rw [Delivery.removeUpTo_append hqueue he hold, hqueue, ackCount_append he hold, Lapsed.presence_eq]
  rfl

/-- Settles O15: the number is absent, or the oldest entry that carries it is UNREAD or READ. -/
theorem ackEvents : Obligations.AckEvents := by
  unfold Obligations.AckEvents
  intro s p tag number hserves d
  simp only [exec, execAckEvents]
  rw [State.request_anySession hserves]
  have hkept : (s.took p).delivery.get p = d := rfl
  refine ⟨fun habsent => ?_, fun old e newer hqueue he hold => ⟨fun hunread => ?_, fun hread => ?_⟩⟩
  · rw [hkept, find_sequence_absent habsent]
    rfl
  · rw [hkept, hqueue, find_sequence he hold]
    dsimp only
    rw [if_neg (Bool.eq_false_iff.1 hunread)]
    rfl
  · rw [hkept, hqueue, find_sequence he hold]
    dsimp only
    rw [if_pos hread, State.acknowledge_append (s := s.took p) hqueue he hold, hkept, State.took_drain]
    rfl

end Sys2Proof.Machine
end

section
/-! PROOFS. CLEAR_COUNTERS: the session gate, then the reset of the ten counters (11 R190). -/

namespace Sys2Proof.Machine

/-- The ten counters one by one, those of a port at each of the three (11 R190). -/
theorem Counters.zero_eq : Counters.zero =
    { sweepOverruns := 0, disturbedSkips := 0, outOfRange := 0, freshDiscards := 0
      lapses := ⟨0, 0, 0⟩, checkErrors := ⟨0, 0, 0⟩ } := rfl

/-- Setting the counters leaves the restarted lease timer standing, and the status block is otherwise the one before the
request. -/
theorem State.took_setCounters (s : State) (p : Port) (c : Counters) :
    (s.took p).setCounters c = { s.took p with status := { s.status with counters := c } } := rfl

/-- Settles O39: the gate refuses a CLOSED port and passes an OPEN one, whatever the lease; the block sets the counters. -/
theorem clearCounters : Obligations.ClearCounters := by
  unfold Obligations.ClearCounters
  intro s p tag hp
  simp only [exec, execClearCounters]
  constructor
  · intro hclosed
    exact State.request_noSession hp hclosed rfl
  · intro hopen
    rw [State.request_anySession ⟨hp, hopen⟩, State.took_setCounters, Counters.zero_eq]
    rfl

end Sys2Proof.Machine
end
